-- ==== Sys2Proof/Word.lean ====
section
/-! DEFINITION. The word types of the FBD: bytes of the buffer and of the bus, words of the command port and of the read port. -/

namespace Sys2Proof

/-- A buffer cell, a payload byte, a byte on the bus (R9, R30). -/
abbrev Byte := BitVec 8

/-- A word of the command port or of the read port (R100, R71). -/
abbrev Word := BitVec 32

end Sys2Proof
end

