-- ==== Sys2Proof/Syntax.lean ====
section
/-! DEFINITION. The 13 commands of FBD-1 with their operands (R104, R125), one constructor per row of the opcode table, and the opcodes themselves. -/

namespace Sys2Proof

/-- A command with its operands in the order of R125. The pad bytes of the last payload word are no part of a
command: R108 gives them no effect (log 15). -/
inductive Instr
  | nop
  | drawPixel (x y : Byte)
  | drawPixels (x y v : Byte)
  | drawChar (x y c : Byte)
  | drawString (x y : Byte) (text : List Byte)
  | drawNumber (x y : Byte) (n : Word) (digits : Byte)
  | showImage (x y width height : Byte) (data : List Byte)
  | clearData
  | clearScreen
  | init
  | render
  | setCursor (x y : Byte)
  | lineTo (x y : Byte)
deriving DecidableEq, Repr

/-- The 13 legal opcodes of the opcode map (R104). -/
inductive Opcode
  | nop
  | drawPixel
  | drawPixels
  | drawChar
  | drawString
  | drawNumber
  | showImage
  | clearData
  | clearScreen
  | init
  | render
  | setCursor
  | lineTo
deriving DecidableEq, Repr

/-- The opcode of a command. -/
def Instr.opcode : Instr → Opcode
  | .nop => .nop
  | .drawPixel _ _ => .drawPixel
  | .drawPixels _ _ _ => .drawPixels
  | .drawChar _ _ _ => .drawChar
  | .drawString _ _ _ => .drawString
  | .drawNumber _ _ _ _ => .drawNumber
  | .showImage _ _ _ _ _ => .showImage
  | .clearData => .clearData
  | .clearScreen => .clearScreen
  | .init => .init
  | .render => .render
  | .setCursor _ _ => .setCursor
  | .lineTo _ _ => .lineTo

end Sys2Proof
end

