-- ==== Sys2Proof/WellFormed.lean ====
section
/-! DEFINITION. Which terms of `Instr` are commands that words can encode: the length of a string fits its 8-bit field, the
height of an image is a multiple of 8, and the data of an image has the length R107 gives it. -/

namespace Sys2Proof

/-- The number of payload bytes of an image (R107): `width * (height div 8)`. -/
def imageBytes (width height : Byte) : Nat :=
  width.toNat * (height.toNat / 8)

/-- A command that some words encode (R106, R107). -/
def Instr.wf : Instr → Bool
  | .drawString _ _ text => decide (text.length < 256)
  | .showImage _ _ width height data =>
      decide (height.toNat % 8 = 0) && decide (data.length = imageBytes width height)
  | .nop => true
  | .drawPixel _ _ => true
  | .drawPixels _ _ _ => true
  | .drawChar _ _ _ => true
  | .drawNumber _ _ _ _ => true
  | .clearData => true
  | .clearScreen => true
  | .init => true
  | .render => true
  | .setCursor _ _ => true
  | .lineTo _ _ => true

end Sys2Proof
end

