-- ==== Sys2Proof/Decode.lean ====
section
/-! DEFINITION. The command encoding of 30_encoding.md: header fields, opcode map, payload packing, the decoder of a whole
command, total on any list of words and rejecting by name, and after it the encoder. -/

namespace Sys2Proof

/-! ### Fields of a header word (R101, R105) -/

/-- `OP = w[31:28]`. -/
def opField (w : Word) : BitVec 4 := w.extractLsb' 28 4

/-- `C = w[23:16]`: the third operand. -/
def fieldC (w : Word) : Byte := w.extractLsb' 16 8

/-- `B = w[15:8]`: the `y` operand. -/
def fieldB (w : Word) : Byte := w.extractLsb' 8 8

/-- `A = w[7:0]`: the `x` operand. -/
def fieldA (w : Word) : Byte := w.extractLsb' 0 8

/-! ### The opcode map (R104) -/

/-- The `OP` column of R104. -/
def Opcode.toBits : Opcode → BitVec 4
  | .nop => 0x0#4
  | .drawPixel => 0x1#4
  | .drawPixels => 0x2#4
  | .drawChar => 0x3#4
  | .drawString => 0x4#4
  | .drawNumber => 0x5#4
  | .showImage => 0x6#4
  | .clearData => 0x7#4
  | .clearScreen => 0x8#4
  | .init => 0x9#4
  | .render => 0xA#4
  | .setCursor => 0xB#4
  | .lineTo => 0xC#4

/-- The command an `OP` field selects; 0xD, 0xE and 0xF select none (R122). -/
def Opcode.ofBits (b : BitVec 4) : Option Opcode :=
  match b.toNat with
  | 0x0 => some .nop
  | 0x1 => some .drawPixel
  | 0x2 => some .drawPixels
  | 0x3 => some .drawChar
  | 0x4 => some .drawString
  | 0x5 => some .drawNumber
  | 0x6 => some .showImage
  | 0x7 => some .clearData
  | 0x8 => some .clearScreen
  | 0x9 => some .init
  | 0xA => some .render
  | 0xB => some .setCursor
  | 0xC => some .lineTo
  | _ => none

/-- The `RSVMASK` column of R104: the header bits that must be 0. -/
def Opcode.rsvMask : Opcode → Word
  | .nop => 0x0FFFFFFF#32
  | .drawPixel => 0x0FFF0000#32
  | .drawPixels => 0x0F000000#32
  | .drawChar => 0x0F000000#32
  | .drawString => 0x0F000000#32
  | .drawNumber => 0x0F000000#32
  | .showImage => 0x0F000000#32
  | .clearData => 0x0FFFFFFF#32
  | .clearScreen => 0x0FFFFFFF#32
  | .init => 0x0FFFFFFF#32
  | .render => 0x0FFFFFFF#32
  | .setCursor => 0x0FFF0000#32
  | .lineTo => 0x0FFF0000#32

/-! ### Refusals of the decoder -/

/-- Why a word is refused as soon as it arrives (R253). -/
inductive WordError
  /-- the header's `OP` is 0xD, 0xE or 0xF (R122) -/
  | illegalOpcode
  /-- a reserved bit of the header or of the height word is 1 (R123) -/
  | reservedBits
  /-- the height of `SHOW_IMAGE` is no multiple of 8 (R253) -/
  | imageHeight
deriving DecidableEq, Repr

/-- Why a list of words does not begin with a whole command. -/
inductive DecodeError
  /-- a word of it is refused -/
  | badWord (e : WordError)
  /-- the list ends before the command does -/
  | truncated
deriving DecidableEq, Repr

/-- The checks of a header word, in the order of R258. -/
def checkHeader (h : Word) : Except WordError Opcode :=
  match Opcode.ofBits (opField h) with
  | none => .error .illegalOpcode
  | some op => if h &&& op.rsvMask = 0#32 then .ok op else .error .reservedBits

/-- The checks of the height word of `SHOW_IMAGE`, in the order of R258. -/
def checkHeight (w : Word) : Except WordError Byte :=
  if w.extractLsb' 8 24 = 0#24 then
    if (w.extractLsb' 0 8).toNat % 8 = 0 then .ok (w.extractLsb' 0 8) else .error .imageHeight
  else .error .reservedBits

/-! ### Payload (R107, R108) -/

/-- The number of payload words of `l` payload bytes (R107). -/
def payloadNeed (l : Nat) : Nat := (l + 3) / 4

/-- The payload words known from the header alone (R104, R109); for `SHOW_IMAGE` they are known from the height word. -/
def headerNeed (op : Opcode) (h : Word) : Nat :=
  match op with
  | .drawString => payloadNeed (fieldC h).toNat
  | .drawNumber => 1
  | .nop => 0
  | .drawPixel => 0
  | .drawPixels => 0
  | .drawChar => 0
  | .showImage => 0
  | .clearData => 0
  | .clearScreen => 0
  | .init => 0
  | .render => 0
  | .setCursor => 0
  | .lineTo => 0

/-- The payload words of `SHOW_IMAGE` after its height word (R104, R107). -/
def imageNeed (h : Word) (height : Byte) : Nat := payloadNeed (imageBytes (fieldC h) height)

/-- The four bytes of a payload word, byte 0 in the low bits (R102, R108). -/
def wordBytes (w : Word) : List Byte :=
  [w.extractLsb' 0 8, w.extractLsb' 8 8, w.extractLsb' 16 8, w.extractLsb' 24 8]

/-- The bytes of the payload words in order (R108), pad bytes included. -/
def payloadBytes (ws : List Word) : List Byte := ws.flatMap wordBytes

/-! ### The decoder -/

/-- The command of a header, a height and payload words (R105, R107, R108, R121): `none` where a word the command takes is
missing. -/
def instrOf (op : Opcode) (h : Word) (aux : Option Byte) (ws : List Word) : Option Instr :=
  match op with
  | .nop => some .nop
  | .drawPixel => some (.drawPixel (fieldA h) (fieldB h))
  | .drawPixels => some (.drawPixels (fieldA h) (fieldB h) (fieldC h))
  | .drawChar => some (.drawChar (fieldA h) (fieldB h) (fieldC h))
  | .drawString => some (.drawString (fieldA h) (fieldB h) ((payloadBytes ws).take (fieldC h).toNat))
  | .drawNumber =>
      match ws with
      | [] => none
      | n :: _ => some (.drawNumber (fieldA h) (fieldB h) n (fieldC h))
  | .showImage =>
      match aux with
      | none => none
      | some height =>
          some (.showImage (fieldA h) (fieldB h) (fieldC h) height
            ((payloadBytes ws).take (imageBytes (fieldC h) height)))
  | .clearData => some .clearData
  | .clearScreen => some .clearScreen
  | .init => some .init
  | .render => some .render
  | .setCursor => some (.setCursor (fieldA h) (fieldB h))
  | .lineTo => some (.lineTo (fieldA h) (fieldB h))

/-- The command of a checked header (and height) and the words after it, with the words it leaves. -/
def decodePayload (op : Opcode) (h : Word) (aux : Option Byte) (need : Nat) (rest : List Word) :
    Except DecodeError (Instr × List Word) :=
  if rest.length < need then .error .truncated
  else
    match instrOf op h aux (rest.take need) with
    | none => .error .truncated
    | some i => .ok (i, rest.drop need)

/-- The first command of a list of words and the words after it, or the reason there is none (R104, R109, R120). -/
def decode : List Word → Except DecodeError (Instr × List Word)
  | [] => .error .truncated
  | h :: rest =>
      match checkHeader h with
      | .error e => .error (.badWord e)
      | .ok .showImage =>
          match rest with
          | [] => .error .truncated
          | w :: rest' =>
              match checkHeight w with
              | .error e => .error (.badWord e)
              | .ok height => decodePayload .showImage h (some height) (imageNeed h height) rest'
      | .ok op => decodePayload op h none (headerNeed op h) rest

/-! ### The encoder (R126) -/

/-- Format H (R101) with `RSV = 0`. -/
def packHeader (op : Opcode) (c b a : Byte) : Word := op.toBits ++ 0#4 ++ c ++ b ++ a

/-- The header word of a command (R104, R126); the word `FAULT_INFO` takes when the command faults (R254). -/
def Instr.header : Instr → Word
  | .nop => packHeader .nop 0 0 0
  | .drawPixel x y => packHeader .drawPixel 0 y x
  | .drawPixels x y v => packHeader .drawPixels v y x
  | .drawChar x y c => packHeader .drawChar c y x
  | .drawString x y text => packHeader .drawString (BitVec.ofNat 8 text.length) y x
  | .drawNumber x y _ digits => packHeader .drawNumber digits y x
  | .showImage x y width _ _ => packHeader .showImage width y x
  | .clearData => packHeader .clearData 0 0 0
  | .clearScreen => packHeader .clearScreen 0 0 0
  | .init => packHeader .init 0 0 0
  | .render => packHeader .render 0 0 0
  | .setCursor x y => packHeader .setCursor 0 y x
  | .lineTo x y => packHeader .lineTo 0 y x

/-- Payload bytes packed into words, byte 0 in the low bits, pad bytes 0 (R102, R126). -/
def packBytes : List Byte → List Word
  | [] => []
  | [b0] => [0#8 ++ 0#8 ++ 0#8 ++ b0]
  | [b0, b1] => [0#8 ++ 0#8 ++ b1 ++ b0]
  | [b0, b1, b2] => [0#8 ++ b2 ++ b1 ++ b0]
  | b0 :: b1 :: b2 :: b3 :: rest => (b3 ++ b2 ++ b1 ++ b0) :: packBytes rest

/-- The words of a command (R126). -/
def encode : Instr → List Word
  | .drawString x y text => (Instr.drawString x y text).header :: packBytes text
  | .drawNumber x y n digits => [(Instr.drawNumber x y n digits).header, n]
  | .showImage x y width height data =>
      (Instr.showImage x y width height data).header :: height.setWidth 32 :: packBytes data
  | .nop => [Instr.nop.header]
  | .drawPixel x y => [(Instr.drawPixel x y).header]
  | .drawPixels x y v => [(Instr.drawPixels x y v).header]
  | .drawChar x y c => [(Instr.drawChar x y c).header]
  | .clearData => [Instr.clearData.header]
  | .clearScreen => [Instr.clearScreen.header]
  | .init => [Instr.init.header]
  | .render => [Instr.render.header]
  | .setCursor x y => [(Instr.setCursor x y).header]
  | .lineTo x y => [(Instr.lineTo x y).header]

/-! ### An instruction given as one number -/

/-- The words of the longest command: `SHOW_IMAGE` with width 255 and height 248 has 2 words and 1977 payload words. -/
def maxCommandWords : Nat := 1979

/-- The words of an instruction whose first `nbits` bits are `w`, bit 0 the least significant bit of the first word, every
bit above 0, up to the longest command. -/
def tableWords (nbits w : Nat) : List Word :=
  (List.range maxCommandWords).map fun j => BitVec.ofNat 32 ((w % 2 ^ nbits) >>> (32 * j))

/-- What `decode` reads from an instruction given as one number. -/
def decodeTableWord (nbits w : Nat) : Option Instr :=
  match decode (tableWords nbits w) with
  | .error _ => none
  | .ok (i, _) => some i

end Sys2Proof
end

