-- ==== Sys2Proof/Config.lean ====
section
/-! DEFINITION. What an FBD instance fixes: the constants of R7 that go on the bus, the parameters of R8 as plain data, and the
free values of the model as constants without a body. -/

namespace Sys2Proof

/-- One entry of the glyph table: six column bytes, leftmost first, bit 0 the top row (R42). -/
abbrev Glyph := Vector Byte 6

/-- The parameters the source leaves open (R8), fixed for the life of an instance. They are read-only fields of State
(log 1). -/
structure Params where
  /-- `ORIGIN_X` (R37) -/
  originX : Byte
  /-- `ORIGIN_Y` (R37) -/
  originY : Byte
  /-- `GLYPH_LAST`: the last defined character code -/
  glyphLast : Byte
  /-- `GLYPH_ROM`: the entry of code `c` at index `c - 0x20` (R42) -/
  glyphRom : List Glyph
  /-- `INIT_SEQ`: the 18 bytes of the init burst -/
  initSeq : Vector Byte 18
  /-- `COL_HI_BYTE`: the third byte of a page command write (R221) -/
  colHiByte : Byte
deriving DecidableEq, Repr

/-- The constraints R8 puts on the parameters. -/
abbrev Params.Wf (p : Params) : Prop :=
  p.originX.toNat ≤ 127 ∧ p.originY.toNat ≤ 63 ∧ 0x39 ≤ p.glyphLast.toNat ∧
    p.glyphRom.length = p.glyphLast.toNat - 0x1F ∧ (p.colHiByte = 0x00#8 ∨ p.colHiByte = 0x10#8)

/-- The result of one bus write (R86). -/
inductive BusResult
  | ok
  | fail
deriving DecidableEq, Repr, Inhabited

namespace Config

/-! ### Constants of R7 that go on the bus -/

/-- `DEV_ADDR`, the panel's 7-bit bus address. -/
def devAddr : BitVec 7 := 0x3C#7

/-- `CTRL_CMD`, the first byte of a page command write. -/
def ctrlCmd : Byte := 0x00#8

/-- `COL_LO_BYTE`, the second byte of a page command write (R221). -/
def colLoByte : Byte := 0x00#8

/-- `PAGE_CMD`, ORed with the page number in a page command write. -/
def pageCmd : Byte := 0xB0#8

/-- `CTRL_DATA`, the first byte of a page data write. -/
def ctrlData : Byte := 0x40#8

/-! ### Free values -/

/-- Free: `ORIGIN_X`, 0 to 127 (R8). -/
opaque originX : Fin 128

/-- Free: `ORIGIN_Y`, 0 to 63 (R8). -/
opaque originY : Fin 64

/-- Free: `GLYPH_LAST - 0x39`, 0 to 0xC6 (R8). -/
opaque glyphLastAbove : Fin 199

/-- Free: the entries of `GLYPH_ROM` (R8). -/
opaque glyphRomEntry : Nat → Glyph

/-- Free: `INIT_SEQ` (R8). -/
opaque initSeq : Vector Byte 18

/-- Free: which of its two readings `COL_HI_BYTE` takes (R8). -/
opaque colHiHasCode : Bool

/-- Free: the byte at address `128 * p + c` of the buffer after reset number `epoch` (R30, R280). -/
opaque fbReset (epoch address : Nat) : Byte

/-- Free: the result of the bus write number `k` after reset number `epoch` (R86). -/
opaque busResult (epoch k : Nat) : BusResult

/-- The parameters of this instance: any values that R8 admits. -/
def params : Params where
  originX := BitVec.ofNat 8 originX.val
  originY := BitVec.ofNat 8 originY.val
  glyphLast := BitVec.ofNat 8 (0x39 + glyphLastAbove.val)
  glyphRom := (List.range (0x1A + glyphLastAbove.val)).map glyphRomEntry
  initSeq := initSeq
  colHiByte := if colHiHasCode then 0x10#8 else 0x00#8

end Config

end Sys2Proof
end

