-- ==== Sys2Proof/Machine/State.lean ====
section
/-! DEFINITION. The state of the FBD (10_state.md), the model's own input and output records beside it, the reasons a step can
stop, and the state after reset. -/

namespace Sys2Proof.Machine

/-- A cursor point: logical coordinates (R38). -/
structure Point where
  x : Byte
  y : Byte
deriving DecidableEq, Repr

/-- The parser state (R40): no command in progress, or a multi-word command with its header, the height of an image once its
word has arrived, the payload words so far and the number of payload words it takes. -/
inductive Parse
  | idle
  | collect (hdr : Word) (aux : Option Byte) (words : List Word) (need : Nat)
deriving DecidableEq, Repr

/-- One bus write transaction (R43, R86). -/
structure BusWrite where
  addr : BitVec 7
  bytes : List Byte
deriving DecidableEq, Repr

/-- One action of the host on the FBD's inputs (R87): a word on the command port, a read of an index on the read port, the
reset signal. -/
inductive HostEvent
  | word (w : Word)
  | read (index : BitVec 12)
  | reset
deriving DecidableEq, Repr

/-- The state of the FBD. The first ten fields are the spec's (10_state.md section 1); the last three are the model's own:
the host's coming actions, the answers of the read port, the number of resets taken (log 3, 4, 5). -/
structure State where
  /-- `ORIGIN_X`, `ORIGIN_Y`, `GLYPH_ROM` and the other parameters of R8; nothing writes them (R37, R42) -/
  params : Params
  /-- the cells written since reset, `fb[p][c]` at address `128 * p + c` (R30, R72), addresses strictly rising (log 2) -/
  fb : List Host.Cell
  /-- the dirty mask, bit `p` for page `p` (R34) -/
  dirty : BitVec 8
  /-- the current cursor point (R38) -/
  cur : Option Point
  /-- the previous cursor point (R38) -/
  prev : Option Point
  /-- the parser state (R40) -/
  parse : Parse
  /-- `FAULT` (R41) -/
  fault : Bool
  /-- `FAULT_CAUSE` (R41) -/
  faultCause : BitVec 4
  /-- `FAULT_INFO` (R41) -/
  faultInfo : Word
  /-- every bus write since reset, in order (R43) -/
  busLog : List BusWrite
  /-- MODEL: what the host does next, in order (R87) -/
  hostQueue : List HostEvent
  /-- MODEL: the answers of the read port, in order (R71) -/
  readLog : List (BitVec 12 × Word)
  /-- MODEL: the number of resets taken, which makes the free draws of R30 and R86 fresh -/
  epoch : Nat
deriving DecidableEq, Repr

/-- The reasons the MODEL stops. No fault of the spec is among them: the FBD's own faults (R250) are next states, made by
`raise` (R254). -/
inductive Fault
  /-- Raised by `Machine.execute` for a `Collect` state that R120 never makes (its header is no legal opcode, or a number or
  height word is missing). Safe: no state that satisfies `Machine.Inv` gets here (log 8). -/
  | noCommand
deriving DecidableEq, Repr

/-- The reasons the model has no meaning for an instruction. -/
inductive Refusal
  /-- Raised by an arm of `exec` for an instruction without a meaning yet; no arm is one. Safe. -/
  | notModelled (mnemonic : String)
deriving DecidableEq, Repr

/-- The machine right after reset (R280): no cell written, so every cell reads as its free draw (R30); the mask 0x00; both
cursors none; the parser Idle; the fault registers 0; no bus write issued. The parameters are any that R8 admits. -/
def State.reset : State where
  params := Config.params
  fb := []
  dirty := 0x00#8
  cur := none
  prev := none
  parse := .idle
  fault := false
  faultCause := 0#4
  faultInfo := 0x00000000#32
  busLog := []
  hostQueue := []
  readLog := []
  epoch := 0

end Sys2Proof.Machine
end

