-- ==== Sys2Proof/Machine/Flags.lean ====
section
/-! DEFINITION. The flags of the FBD: the dirty mask (R34, R35) and the flag fields of `STATUS` (R44). -/

namespace Sys2Proof.Machine

/-- `dirty[p]` (R13). -/
def isDirty (dirty : BitVec 8) (p : Nat) : Bool := dirty.getLsbD p

/-- `dirty[p] <- 1`, every other bit as before (R140). -/
def markDirty (p : Nat) (s : State) : State :=
  { s with dirty := s.dirty ||| (1#8 <<< p) }

/-- `STATUS[0]`, `FAULT` (R44). -/
def faultFlag (s : State) : BitVec 1 := BitVec.ofBool s.fault

/-- `STATUS[8]`, `CUR_VALID` (R44). -/
def curValid (s : State) : BitVec 1 := BitVec.ofBool s.cur.isSome

/-- `STATUS[9]`, `PREV_VALID` (R44). -/
def prevValid (s : State) : BitVec 1 := BitVec.ofBool s.prev.isSome

/-- Whether a command is in progress (R40). -/
def Parse.busy : Parse → Bool
  | .idle => false
  | .collect _ _ _ _ => true

/-- `STATUS[10]`, `PARSE_BUSY` (R40, R44). -/
def parseBusy (s : State) : BitVec 1 := BitVec.ofBool s.parse.busy

end Sys2Proof.Machine
end

