-- ==== Sys2Proof/Machine/Ops.lean ====
section
/-! DEFINITION. The operations the commands share: the memory of the buffer, the two drawing primitives, fault entry, leaving
the fault state by reset, the cursor update, the bus write and the flush. -/

namespace Sys2Proof.Machine

/-! ### Memory (R30): a list of written cells with strictly rising addresses (log 2) -/

/-- The byte written at address `a`; `none` where nothing has been written since reset. -/
def memGet : List Host.Cell → Nat → Option Byte
  | [], _ => none
  | (k, v) :: rest, a => if k = a then some v else memGet rest a

/-- Writes `v` at address `a`, keeping the addresses strictly rising. -/
def memSet : List Host.Cell → Nat → Byte → List Host.Cell
  | [], a, v => [(a, v)]
  | (k, u) :: rest, a, v =>
      if a < k then (a, v) :: (k, u) :: rest
      else if k = a then (a, v) :: rest
      else (k, u) :: memSet rest a v

/-- Writes 0 to the 128 cells of page `p`. -/
def memZeroPage (m : List Host.Cell) (p : Nat) : List Host.Cell :=
  m.filter (fun e => decide (e.1 < 128 * p)) ++
    (List.range 128).map (fun c => (128 * p + c, 0x00#8)) ++
    m.filter (fun e => decide (128 * (p + 1) ≤ e.1))

/-- The canonical form: addresses strictly rising, none outside the 1024 cells of the buffer. -/
abbrev Memory.wf (m : List Host.Cell) : Prop :=
  m.Pairwise (fun e f => e.1 < f.1) ∧ ∀ e ∈ m, e.1 < 1024

/-- The address of `fb[p][c]`, which is its read-port index too (R72). -/
def cellIndex (p c : Nat) : Nat := 128 * p + c

/-- `fb[p][c]`: the byte written there since reset, or else the free draw of R30. -/
def fbRead (s : State) (p c : Nat) : Byte :=
  (memGet s.fb (cellIndex p c)).getD (Config.fbReset s.epoch (cellIndex p c))

/-- `fb[p][c] <- v`. -/
def fbWrite (p c : Nat) (v : Byte) (s : State) : State :=
  { s with fb := memSet s.fb (cellIndex p c) v }

/-- `fb[p][c] <- 0` for the 128 cells of page `p` (R184, R186). -/
def zeroPage (p : Nat) (s : State) : State :=
  { s with fb := memZeroPage s.fb p }

/-! ### The drawing primitives -/

/-- `Plot(X, Y)` (R140): sets one pixel and marks its page. -/
def plot (X Y : Nat) (s : State) : State :=
  markDirty (Y / 8) (fbWrite (Y / 8) X (fbRead s (Y / 8) X ||| (1#8 <<< (Y % 8))) s)

/-- `Pixels(x, y, v)` (R142): overwrites one cell at an aligned row, ORs the slice over two cells otherwise; marks every page
it addresses (R144). -/
def pixels (x y : Nat) (v : Byte) (s : State) : State :=
  if y % 8 = 0 then markDirty (y / 8) (fbWrite (y / 8) x v s)
  else
    let upper := fbWrite (y / 8) x (fbRead s (y / 8) x ||| (v <<< (y % 8))) s
    let lower := fbWrite (y / 8 + 1) x (fbRead upper (y / 8 + 1) x ||| (v >>> (8 - y % 8))) upper
    markDirty (y / 8 + 1) (markDirty (y / 8) lower)

/-! ### Faults (R250, R254) -/

/-- The fault causes 1 to 6 of R250. -/
inductive Cause
  | illegalOpcode
  | reservedBits
  | coordRange
  | charRange
  | imageHeight
  | cursorUnset
deriving DecidableEq, Repr

/-- The code of a cause (R250). -/
def Cause.code : Cause → BitVec 4
  | .illegalOpcode => 1#4
  | .reservedBits => 2#4
  | .coordRange => 3#4
  | .charRange => 4#4
  | .imageHeight => 5#4
  | .cursorUnset => 6#4

/-- `raise Fault(cause)` for the command with header word `h` (R254): the fault registers are written, the parser goes to
Idle, and nothing else changes. No state is saved, no vector is taken. -/
def raise (cause : Cause) (h : Word) (s : State) : State :=
  { s with fault := true, faultCause := cause.code, faultInfo := h, parse := .idle }

/-- Reset (R280, R282), the only way out of the fault state (R257): every element of the FBD takes its reset value, a partial
command is dropped, and the cells take fresh free draws. The parameters are fixed from reset to reset (R8); the host's actions
and the answers it has had are the host's (log 5). -/
def applyReset (s : State) : State :=
  { State.reset with
    params := s.params, hostQueue := s.hostQueue, readLog := s.readLog, epoch := s.epoch + 1 }

/-! ### Cursors (R39) -/

/-- `UpdateCursor(v)`: `prev <- cur; cur <- some v`. -/
def updateCursor (v : Point) (s : State) : State :=
  { s with prev := s.cur, cur := some v }

/-! ### The bus (R86) -/

/-- What the FBD does with the result of a bus write (R86, R227): it discards it. -/
def afterBus (_result : BusResult) (s : State) : State := s

/-- `BusWrite(addr, bytes)` (R86): the write is recorded whether or not it succeeds, and its result, the draw of `bus` for
this write's place in the log, is discarded. -/
def busWrite (bus : Nat → BusResult) (w : BusWrite) (s : State) : State :=
  afterBus (bus s.busLog.length) { s with busLog := s.busLog ++ [w] }

/-- `(DEV_ADDR, PageCmd(p))` (R221). -/
def pageCmdWrite (params : Params) (p : Nat) : BusWrite where
  addr := Config.devAddr
  bytes := [Config.ctrlCmd, Config.colLoByte, params.colHiByte, Config.pageCmd ||| BitVec.ofNat 8 p]

/-- `(DEV_ADDR, PageData(p))` (R221): `0x40`, then `fb[p][0]` to `fb[p][127]` (R76). -/
def pageDataWrite (s : State) (p : Nat) : BusWrite where
  addr := Config.devAddr
  bytes := Config.ctrlData :: (List.range 128).map (fbRead s p)

/-- `(DEV_ADDR, INIT_SEQ)` (R222). -/
def initWrite (params : Params) : BusWrite where
  addr := Config.devAddr
  bytes := params.initSeq.toList

/-- The two writes of one page, where it is dirty (R224). -/
def flushPage (bus : Nat → BusResult) (s : State) (p : Nat) : State :=
  if isDirty s.dirty p then
    let t := busWrite bus (pageCmdWrite s.params p) s
    busWrite bus (pageDataWrite t p) t
  else s

/-- `Render()` (R224) over a bus that answers `bus`: the dirty pages in ascending order, then `dirty <- 0x00` whatever the
results were. -/
def renderWith (bus : Nat → BusResult) (s : State) : State :=
  { (List.range 8).foldl (flushPage bus) s with dirty := 0x00#8 }

/-- The bus of this run: free draws (R86). -/
def busOf (s : State) : Nat → BusResult := Config.busResult s.epoch

/-- `Render()` (R224). -/
def render (s : State) : State := renderWith (busOf s) s

/-- The effect of `INIT` (R222) over a bus that answers `bus`. -/
def initWith (bus : Nat → BusResult) (s : State) : State :=
  renderWith bus { busWrite bus (initWrite s.params) s with dirty := 0xFF#8 }

/-- Zeroes page `p` where it is dirty (R184). -/
def clearPageIfDirty (s : State) (p : Nat) : State :=
  if isDirty s.dirty p then zeroPage p s else s

/-- The effect of `CLEAR_DATA` (R184) over a bus that answers `bus`. -/
def clearDataWith (bus : Nat → BusResult) (s : State) : State :=
  renderWith bus ((List.range 8).foldl clearPageIfDirty s)

end Sys2Proof.Machine
end

