-- ==== Sys2Proof/Machine/Operands.lean ====
section
/-! DEFINITION. The operand forms of the drawing commands: raw and logical coordinates (R16), the cells a column slice
addresses (R142), the slices of text, numbers and images, the points of a line (R200), and the checks on them (R17, R251,
R252). Sums are exact, never wrapped (R11). -/

namespace Sys2Proof.Machine

/-- A raw pixel inside the buffer (R17). -/
def pixelInRange (X Y : Nat) : Bool := decide (X < 128) && decide (Y < 64)

/-- The raw column of a logical `x` (R16). -/
def rawX (params : Params) (x : Nat) : Nat := x + params.originX.toNat

/-- The raw row of a logical `y` (R16). -/
def rawY (params : Params) (y : Nat) : Nat := y + params.originY.toNat

/-- A column slice: `v` at raw column `x` with its top row at raw row `y` (R142). -/
structure Slice where
  x : Nat
  y : Nat
  v : Byte
deriving DecidableEq, Repr

/-- `PixCells(x, y)` (R142), each cell as (page, column). -/
def pixCells (x y : Nat) : List (Nat × Nat) :=
  if y % 8 = 0 then [(y / 8, x)] else [(y / 8, x), (y / 8 + 1, x)]

/-- A cell (page, column) inside the buffer (R17). -/
def cellInRange (cell : Nat × Nat) : Bool := decide (cell.1 < 8) && decide (cell.2 < 128)

/-- Every cell the slice addresses is inside the buffer; the data does not matter (R251). -/
def sliceInRange (sl : Slice) : Bool := (pixCells sl.x sl.y).all cellInRange

/-- Writes one slice (R142). -/
def drawSlice (s : State) (sl : Slice) : State := pixels sl.x sl.y sl.v s

/-- Checks every slice, then writes them all in order, or raises `COORD_RANGE` and writes nothing (R15, R251). -/
def drawSlices (h : Word) (slices : List Slice) (s : State) : State :=
  if slices.all sliceInRange then slices.foldl drawSlice s else raise .coordRange h s

/-! ### Glyphs (R42, R160, R162, R252) -/

/-- A character of the glyph table (R252). -/
def charInRange (params : Params) (c : Byte) : Bool :=
  decide (0x20 ≤ c.toNat) && decide (c.toNat ≤ params.glyphLast.toNat)

/-- `G(c)[k]` (R14): byte `k` of `GLYPH_ROM(c - 0x20)`. The table has an entry for every character in range
(`Params.Wf`); no other character is ever drawn (log 10). -/
def glyphByte (params : Params) (c : Byte) (k : Nat) : Byte :=
  match params.glyphRom[c.toNat - 0x20]? with
  | none => 0x00#8
  | some g => g.toList.getD k 0x00#8

/-- The slices of one glyph at raw `(x, y)` (R160). -/
def glyphSlices (params : Params) (x y : Nat) (c : Byte) : List Slice :=
  (List.range 6).map fun k => { x := x + k, y := y, v := glyphByte params c k }

/-- The slices of the characters `chars` from raw `(x, y)` on, six columns apart (R162). -/
def textSlices (params : Params) (x y : Nat) (chars : List Byte) : List Slice :=
  chars.zipIdx.flatMap fun ci => glyphSlices params (x + 6 * ci.2) y ci.1

/-- The characters' check, then the coordinates' (R259), then the writes (R160, R162). -/
def drawText (h : Word) (x y : Nat) (chars : List Byte) (s : State) : State :=
  if chars.all (charInRange s.params) then drawSlices h (textSlices s.params x y chars) s
  else raise .charRange h s

/-! ### Numbers (R164) -/

/-- Digit `i` of the field, `i = 0` the leftmost (R164). -/
def digit (n digits i : Nat) : Nat := n / 10 ^ (digits - 1 - i) % 10

/-- The characters `ch_0 .. ch_{digits-1}` (R165). -/
def numberChars (n digits : Nat) : List Byte :=
  (List.range digits).map fun i => BitVec.ofNat 8 (0x30 + digit n digits i)

/-! ### Images (R180) -/

/-- The slices of an image at raw `(x, y)`: byte `r * width + col` is column `col` of strip-row `r` (R180). A well-formed
command has a byte for each (log 9). -/
def imageSlices (x y width rows : Nat) (data : List Byte) : List Slice :=
  (List.range rows).flatMap fun r =>
    (List.range width).map fun col =>
      { x := x + col, y := y + 8 * r, v := data.getD (r * width + col) 0x00#8 }

/-! ### Lines (R200) -/

/-- The loop of `LinePoints` (R200), `fuel` bounding its rounds (log 7). -/
def lineLoop (x1 y1 dx dy sx sy : Int) : Nat → Int → Int → Int → List (Int × Int)
  | 0, _, _, _ => []
  | fuel + 1, err, x, y =>
      (x, y) ::
        if x = x1 ∧ y = y1 then []
        else
          lineLoop x1 y1 dx dy sx sy fuel
            (err + (if 2 * err ≥ dy then dy else 0) + (if 2 * err ≤ dx then dx else 0))
            (if 2 * err ≥ dy then x + sx else x)
            (if 2 * err ≤ dx then y + sy else y)

/-- `LinePoints(x0, y0, x1, y1)` (R200). -/
def linePoints (x0 y0 x1 y1 : Int) : List (Int × Int) :=
  lineLoop x1 y1 (x1 - x0).natAbs (-(y1 - y0).natAbs) (if x0 < x1 then 1 else -1) (if y0 < y1 then 1 else -1)
    ((x1 - x0).natAbs + (y1 - y0).natAbs + 1) ((x1 - x0).natAbs + -(y1 - y0).natAbs) x0 y0

/-- A logical point whose raw pixel is inside the buffer (R204). -/
def pointInRange (params : Params) (q : Int × Int) : Bool :=
  decide (q.1 + params.originX.toNat < 128) && decide (q.2 + params.originY.toNat < 64)

/-- Plots a logical point (R204). -/
def plotPoint (s : State) (q : Int × Int) : State :=
  plot (rawX s.params q.1.toNat) (rawY s.params q.2.toNat) s

end Sys2Proof.Machine
end

