-- ==== Sys2Proof/Machine/Image.lean ====
section
/-! DEFINITION. `SHOW_IMAGE` (R180), `CLEAR_DATA` (R184) and `CLEAR_SCREEN` (R186). -/

namespace Sys2Proof.Machine

/-- `SHOW_IMAGE x, y, width, height, data` (R180): raw coordinates. The parser has made the height check already when the
command comes from words (R120); it stands here as in R180. -/
def execShowImage (x y width height : Byte) (data : List Byte) (s : State) : Host.Outcome State Fault Refusal :=
  .next
    (if height.toNat % 8 = 0 then
      drawSlices (Instr.showImage x y width height data).header
        (imageSlices x.toNat y.toNat width.toNat (height.toNat / 8) data) s
    else raise .imageHeight (Instr.showImage x y width height data).header s)

/-- `CLEAR_DATA` (R184): zeroes the dirty pages, then renders. -/
def execClearData (s : State) : Host.Outcome State Fault Refusal :=
  .next (clearDataWith (busOf s) s)

/-- `CLEAR_SCREEN` (R186): zeroes every cell; the mask stays. -/
def execClearScreen (s : State) : Host.Outcome State Fault Refusal :=
  .next ((List.range 8).foldl (fun t p => zeroPage p t) s)

end Sys2Proof.Machine
end

