-- ==== Sys2Proof/Machine/Line.lean ====
section
/-! DEFINITION. The cursor and line commands, in logical coordinates: `SET_CURSOR` (R202) and `LINE_TO` (R204). -/

namespace Sys2Proof.Machine

/-- `SET_CURSOR x, y` (R202): no range check. -/
def execSetCursor (x y : Byte) (s : State) : Host.Outcome State Fault Refusal :=
  .next (updateCursor { x := x, y := y } s)

/-- The points of the line from `q` to `(x, y)` (R204). -/
def lineTo (q : Point) (x y : Byte) : List (Int × Int) :=
  linePoints q.x.toNat q.y.toNat x.toNat y.toNat

/-- `LINE_TO x, y` (R204): the cursor's check, then every point's, then the cursor update and the plots. -/
def execLineTo (x y : Byte) (s : State) : Host.Outcome State Fault Refusal :=
  .next
    (match s.cur with
    | none => raise .cursorUnset (Instr.lineTo x y).header s
    | some q =>
        if (lineTo q x y).all (pointInRange s.params) then
          (lineTo q x y).foldl plotPoint (updateCursor { x := x, y := y } s)
        else raise .coordRange (Instr.lineTo x y).header s)

end Sys2Proof.Machine
end

