-- ==== Sys2Proof/Machine/Pixels.lean ====
section
/-! DEFINITION. Pixel writes: `DRAW_PIXEL` (R141) and `DRAW_PIXELS` (R143). -/

namespace Sys2Proof.Machine

/-- `DRAW_PIXEL x, y` (R141): logical coordinates. -/
def execDrawPixel (x y : Byte) (s : State) : Host.Outcome State Fault Refusal :=
  .next
    (if pixelInRange (rawX s.params x.toNat) (rawY s.params y.toNat) then
      plot (rawX s.params x.toNat) (rawY s.params y.toNat) s
    else raise .coordRange (Instr.drawPixel x y).header s)

/-- `DRAW_PIXELS x, y, v` (R143): raw coordinates. -/
def execDrawPixels (x y v : Byte) (s : State) : Host.Outcome State Fault Refusal :=
  .next (drawSlices (Instr.drawPixels x y v).header [{ x := x.toNat, y := y.toNat, v := v }] s)

end Sys2Proof.Machine
end

