-- ==== Sys2Proof/Machine/Text.lean ====
section
/-! DEFINITION. Text and numbers, in raw coordinates: `DRAW_CHAR` (R160), `DRAW_STRING` (R162), `DRAW_NUMBER` (R165). -/

namespace Sys2Proof.Machine

/-- `DRAW_CHAR x, y, c` (R160). -/
def execDrawChar (x y c : Byte) (s : State) : Host.Outcome State Fault Refusal :=
  .next (drawText (Instr.drawChar x y c).header x.toNat y.toNat [c] s)

/-- `DRAW_STRING x, y, text` (R162). -/
def execDrawString (x y : Byte) (text : List Byte) (s : State) : Host.Outcome State Fault Refusal :=
  .next (drawText (Instr.drawString x y text).header x.toNat y.toNat text s)

/-- `DRAW_NUMBER x, y, n, digits` (R165): the digits' characters are inside every glyph table (R8), so their range is not
checked. -/
def execDrawNumber (x y : Byte) (n : Word) (digits : Byte) (s : State) : Host.Outcome State Fault Refusal :=
  .next
    (drawSlices (Instr.drawNumber x y n digits).header
      (textSlices s.params x.toNat y.toNat (numberChars n.toNat digits.toNat)) s)

end Sys2Proof.Machine
end

