-- ==== Sys2Proof/Machine/Transport.lean ====
section
/-! DEFINITION. `NOP` (R220), `INIT` (R222) and `RENDER` (R225). -/

namespace Sys2Proof.Machine

/-- `NOP` (R220): no state changes. -/
def execNop (s : State) : Host.Outcome State Fault Refusal := .next s

/-- `INIT` (R222): the init burst as one write, then every page. -/
def execInit (s : State) : Host.Outcome State Fault Refusal :=
  .next (initWith (busOf s) s)

/-- `RENDER` (R225). -/
def execRender (s : State) : Host.Outcome State Fault Refusal :=
  .next (render s)

end Sys2Proof.Machine
end

