-- ==== Sys2Proof/Machine/Dispatch.lean ====
section
/-! DEFINITION. One arm per command (R104, R121): the command's meaning. -/

namespace Sys2Proof.Machine

/-- Executes one command, all of it or, where a check fails, nothing but fault entry (R15, R121). -/
def exec (i : Instr) (s : State) : Host.Outcome State Fault Refusal :=
  match i with
  | .nop => Sys2Proof.Machine.execNop s
  | .drawPixel x y => Sys2Proof.Machine.execDrawPixel x y s
  | .drawPixels x y v => Sys2Proof.Machine.execDrawPixels x y v s
  | .drawChar x y c => Sys2Proof.Machine.execDrawChar x y c s
  | .drawString x y text => Sys2Proof.Machine.execDrawString x y text s
  | .drawNumber x y n digits => Sys2Proof.Machine.execDrawNumber x y n digits s
  | .showImage x y width height data => Sys2Proof.Machine.execShowImage x y width height data s
  | .clearData => Sys2Proof.Machine.execClearData s
  | .clearScreen => Sys2Proof.Machine.execClearScreen s
  | .init => Sys2Proof.Machine.execInit s
  | .render => Sys2Proof.Machine.execRender s
  | .setCursor x y => Sys2Proof.Machine.execSetCursor x y s
  | .lineTo x y => Sys2Proof.Machine.execLineTo x y s

end Sys2Proof.Machine
end

