-- ==== Sys2Proof/Machine/ReadPort.lean ====
section
/-! DEFINITION. The read port: the register views of R44 to R48 and the map of R72. -/

namespace Sys2Proof.Machine

/-- `STATUS` (R44), from bit 31 down: reserved, `DIRTY`, reserved, `PARSE_BUSY`, `PREV_VALID`, `CUR_VALID`, `FAULT_CAUSE`,
reserved, `FAULT`. -/
def statusReg (s : State) : Word :=
  0#8 ++ s.dirty ++ 0#5 ++ parseBusy s ++ prevValid s ++ curValid s ++ s.faultCause ++ 0#3 ++ faultFlag s

/-- The x field of a point in `CURSOR`; 0 where there is none (R45). -/
def pointX (q : Option Point) : Byte :=
  match q with
  | none => 0x00#8
  | some v => v.x

/-- The y field of a point in `CURSOR`; 0 where there is none (R45). -/
def pointY (q : Option Point) : Byte :=
  match q with
  | none => 0x00#8
  | some v => v.y

/-- `CURSOR` (R45), from bit 31 down: `prev.y`, `prev.x`, `cur.y`, `cur.x`. -/
def cursorReg (s : State) : Word :=
  pointY s.prev ++ pointX s.prev ++ pointY s.cur ++ pointX s.cur

/-- `ORIGIN` (R46). -/
def originReg (s : State) : Word := 0#16 ++ s.params.originY ++ s.params.originX

/-- `PARAMS` (R47): `GLYPH_LAST`, `GLYPH_W`, `PAGE_COUNT`, `WIDTH`. -/
def paramsReg (s : State) : Word := s.params.glyphLast ++ 0x06#8 ++ 0x08#8 ++ 0x80#8

/-- `RegRead(a)` (R71, R72). -/
def regRead (s : State) (a : BitVec 12) : Word :=
  if a.toNat < 0x400 then (fbRead s (a.toNat / 128) (a.toNat % 128)).setWidth 32
  else if a.toNat = 0x400 then statusReg s
  else if a.toNat = 0x401 then cursorReg s
  else if a.toNat = 0x402 then originReg s
  else if a.toNat = 0x403 then paramsReg s
  else if a.toNat = 0x404 then s.faultInfo
  else 0x00000000#32

/-- Answers one read: the answer goes to the host, the FBD's state stays (R71, R74; log 4). -/
def answerRead (a : BitVec 12) (s : State) : State :=
  { s with readLog := s.readLog ++ [(a, regRead s a)] }

end Sys2Proof.Machine
end

