-- ==== Sys2Proof/Machine/Parser.lean ====
section
/-! DEFINITION. The command parser (R120), the execution of a whole command (R121), and what the FBD does on each action of the
host (R87). -/

namespace Sys2Proof.Machine

/-- The fault cause of a refused word (R253). -/
def causeOf : WordError → Cause
  | .illegalOpcode => .illegalOpcode
  | .reservedBits => .reservedBits
  | .imageHeight => .imageHeight

/-- What one accepted word does to the parser (R120). -/
inductive Move
  /-- the command goes on -/
  | goto (p : Parse)
  /-- the command is complete: `Execute(h, aux, ws)` -/
  | execute (h : Word) (aux : Option Byte) (ws : List Word)
  /-- `raise Fault(cause)` with `FAULT_INFO <- h` -/
  | fault (cause : Cause) (h : Word)
deriving DecidableEq, Repr

/-- `Idle` on a header word (R120). -/
def idleMove (w : Word) : Move :=
  match checkHeader w with
  | .error e => .fault (causeOf e) w
  | .ok .showImage => .goto (.collect w none [] 0)
  | .ok op =>
      if headerNeed op w = 0 then .execute w none []
      else .goto (.collect w none [] (headerNeed op w))

/-- `Collect` of an image on its height word (R120). -/
def heightMove (h w : Word) : Move :=
  match checkHeight w with
  | .error e => .fault (causeOf e) h
  | .ok height =>
      if imageNeed h height = 0 then .execute h (some height) []
      else .goto (.collect h (some height) [] (imageNeed h height))

/-- `Collect` on a payload word (R120): the word is never inspected. -/
def payloadMove (h : Word) (aux : Option Byte) (words : List Word) (need : Nat) (w : Word) : Move :=
  if (words ++ [w]).length = need then .execute h aux (words ++ [w])
  else .goto (.collect h aux (words ++ [w]) need)

/-- The parser's transition on a word (R120). -/
def parserMove (p : Parse) (w : Word) : Move :=
  match p with
  | .idle => idleMove w
  | .collect h aux words need =>
      if opField h = 0x6#4 ∧ aux = none ∧ words = [] then heightMove h w
      else payloadMove h aux words need w

/-- `Execute(h, aux, ws)` (R121): runs the command the header selects. -/
def execute (h : Word) (aux : Option Byte) (ws : List Word) (s : State) : Host.Outcome State Fault Refusal :=
  match Opcode.ofBits (opField h) with
  | none => .fault .noCommand
  | some op =>
      match instrOf op h aux ws with
      | none => .fault .noCommand
      | some i => exec i s

/-- One parser step on an accepted word (R120); in the fault state the word is discarded (R256). -/
def acceptWord (w : Word) (s : State) : Host.Outcome State Fault Refusal :=
  if s.fault then .next s
  else
    match parserMove s.parse w with
    | .goto p => .next { s with parse := p }
    | .fault cause h => .next (raise cause h s)
    | .execute h aux ws => execute h aux ws { s with parse := .idle }

/-- One action of the host (R87). -/
def acceptEvent (e : HostEvent) (s : State) : Host.Outcome State Fault Refusal :=
  match e with
  | .word w => acceptWord w s
  | .read a => .next (answerRead a s)
  | .reset => .next (applyReset s)

/-- The parser state just before the last word of the first command of a list of words, and that last word; on a word that
faults, the state before it and the word. -/
def lastFetch (p : Parse) : List Word → Parse × Word
  | [] => (p, 0#32)
  | w :: ws =>
      match parserMove p w with
      | .goto p' => lastFetch p' ws
      | .execute _ _ _ => (p, w)
      | .fault _ _ => (p, w)

end Sys2Proof.Machine
end

