-- ==== Sys2Proof/Machine/Step.lean ====
section
/-! DEFINITION. One step of the FBD, and how an instruction is put where the next step takes it. -/

namespace Sys2Proof.Machine

/-- One step: the FBD takes the host's next action (R87, R120). With none it waits, and nothing changes (log 3). -/
def step (s : State) : Host.Outcome State Fault Refusal :=
  match s.hostQueue with
  | [] => .next s
  | e :: rest => acceptEvent e { s with hostQueue := rest }

/-- Puts an instruction, given as one number, where the next step takes it: every word but the last is in the parser, and the
last is the host's next word (log 11). Nothing else changes. -/
def State.withFetchWord (s : State) (nbits w : Nat) : State :=
  { s with
    parse := (lastFetch .idle (tableWords nbits w)).1
    hostQueue := .word (lastFetch .idle (tableWords nbits w)).2 :: s.hostQueue }

end Sys2Proof.Machine
end

