-- ==== Sys2Proof/Safety.lean ====
section
/-! DEFINITION. What a good state of the FBD is, what a run is, and the frames that statements use. -/

namespace Sys2Proof.Machine

/-! ### Runs -/

/-- `k` steps, stopping at the first fault or refusal of the model. -/
def runSteps : Nat → State → Host.Outcome State Fault Refusal
  | 0, s => .next s
  | k + 1, s =>
      match step s with
      | .next t => runSteps k t
      | .fault r => .fault r
      | .refused r => .refused r

/-! ### Good states -/

/-- A parser state that R120 makes: the header passes its checks, the count of payload words is the one the command takes, and
not all of them have come. -/
def Parse.wf : Parse → Bool
  | .idle => true
  | .collect h aux words need =>
      match checkHeader h with
      | .error _ => false
      | .ok .drawString =>
          decide (aux = none) && decide (need = payloadNeed (fieldC h).toNat) && decide (words.length < need)
      | .ok .drawNumber => decide (aux = none) && decide (need = 1) && decide (words.length < need)
      | .ok .showImage =>
          match aux with
          | none => decide (words = []) && decide (need = 0)
          | some height =>
              decide (height.toNat % 8 = 0) && decide (need = imageNeed h height) && decide (words.length < need)
      | .ok _ => false

/-- A bus log whose writes are whole `INIT_SEQ` bursts and whole page pairs, command first (R226). -/
inductive BusShape (params : Params) : List BusWrite → Prop
  | empty : BusShape params []
  | burst {log : List BusWrite} : BusShape params log → BusShape params (log ++ [initWrite params])
  | page {log : List BusWrite} (p : Nat) (bytes : List Byte) :
      BusShape params log → p < 8 → bytes.length = 128 →
        BusShape params
          (log ++ [pageCmdWrite params p, { addr := Config.devAddr, bytes := Config.ctrlData :: bytes }])

/-- What every state of a run satisfies. -/
structure Inv (s : State) : Prop where
  /-- the parameters meet the constraints of R8 -/
  params : s.params.Wf
  /-- the buffer's memory is in canonical form (R30) -/
  memory : Memory.wf s.fb
  /-- the parser state is one that R120 makes -/
  parse : s.parse.wf = true
  /-- a previous point exists only beside a current one (R39) -/
  cursors : s.prev.isSome = true → s.cur.isSome = true
  /-- without a fault the fault registers hold their reset values (R41, R254) -/
  running : s.fault = false → s.faultCause = 0#4 ∧ s.faultInfo = 0#32
  /-- with a fault the cause is 1 to 6 and the parser is Idle (R250, R254) -/
  faulted : s.fault = true → 1 ≤ s.faultCause.toNat ∧ s.faultCause.toNat ≤ 6 ∧ s.parse = .idle
  /-- the bus has seen whole bursts and whole page pairs only (R226) -/
  bus : BusShape s.params s.busLog

/-! ### Frames -/

/-- The model's own fields and the parameters are the same. -/
def SameHost (s t : State) : Prop :=
  t.params = s.params ∧ t.hostQueue = s.hostQueue ∧ t.readLog = s.readLog ∧ t.epoch = s.epoch

/-- The fault registers and the parser are the same. -/
def SameControl (s t : State) : Prop :=
  t.parse = s.parse ∧ t.fault = s.fault ∧ t.faultCause = s.faultCause ∧ t.faultInfo = s.faultInfo

/-- Both cursor points are the same. -/
def SameCursors (s t : State) : Prop := t.cur = s.cur ∧ t.prev = s.prev

/-- Every cell of the buffer reads the same. -/
def SameCells (s t : State) : Prop :=
  ∀ p, p < 8 → ∀ c, c < 128 → fbRead t p c = fbRead s p c

/-- Everything but the cells and the dirty mask is the same: the frame of the drawing commands (R32, R35). -/
def OnlyDrawn (s t : State) : Prop :=
  SameHost s t ∧ SameControl s t ∧ SameCursors s t ∧ t.busLog = s.busLog

/-- Everything but the cursor points is the same. -/
def OnlyMovedCursor (s t : State) : Prop :=
  SameHost s t ∧ SameControl s t ∧ SameCells s t ∧ t.dirty = s.dirty ∧ t.busLog = s.busLog

/-- Everything but the dirty mask and the bus log is the same: the frame of a flush (R224). -/
def OnlyFlushed (s t : State) : Prop :=
  SameHost s t ∧ SameControl s t ∧ SameCursors s t ∧ SameCells s t

/-- `t` is `s` after fault entry with `cause` for the header word `h`, and nothing else (R254). -/
def FaultEntered (cause : Cause) (h : Word) (s t : State) : Prop :=
  t = { s with fault := true, faultCause := cause.code, faultInfo := h, parse := .idle }

/-! ### What the drawing commands leave -/

/-- The buffer and the mask of `t` are those of `s` after the glyphs of `chars` are drawn from raw `(x, y)` on, six columns a
character (R160, R162): overwritten at an aligned row, ORed over two pages otherwise. -/
def TextDrawn (s t : State) (x y : Nat) (chars : List Byte) : Prop :=
  (∀ p, p < 8 → ∀ c, c < 128 →
    fbRead t p c =
      if x ≤ c ∧ c < x + 6 * chars.length then
        let v := glyphByte s.params (chars.getD ((c - x) / 6) 0) ((c - x) % 6)
        if p = y / 8 then (if y % 8 = 0 then v else fbRead s p c ||| (v <<< (y % 8)))
        else if p = y / 8 + 1 ∧ y % 8 ≠ 0 then fbRead s p c ||| (v >>> (8 - y % 8))
        else fbRead s p c
      else fbRead s p c) ∧
    ∀ q, q < 8 →
      isDirty t.dirty q =
        (isDirty s.dirty q ||
          decide (chars ≠ [] ∧ (q = y / 8 ∨ q = y / 8 + 1 ∧ y % 8 ≠ 0)))

/-- The buffer and the mask of `t` are those of `s` after an image of `width` columns and `rows` strip-rows is drawn at raw
`(x, y)` (R180). -/
def ImageDrawn (s t : State) (x y width rows : Nat) (data : List Byte) : Prop :=
  (∀ p, p < 8 → ∀ c, c < 128 →
    fbRead t p c =
      if x ≤ c ∧ c < x + width then
        if y % 8 = 0 then
          if y / 8 ≤ p ∧ p < y / 8 + rows then data.getD ((p - y / 8) * width + (c - x)) 0 else fbRead s p c
        else
          fbRead s p c |||
            (if y / 8 ≤ p ∧ p < y / 8 + rows then
              data.getD ((p - y / 8) * width + (c - x)) 0 <<< (y % 8) else 0) |||
            (if y / 8 + 1 ≤ p ∧ p < y / 8 + 1 + rows then
              data.getD ((p - (y / 8 + 1)) * width + (c - x)) 0 >>> (8 - y % 8) else 0)
      else fbRead s p c) ∧
    ∀ q, q < 8 →
      isDirty t.dirty q =
        (isDirty s.dirty q ||
          decide (0 < width ∧ 0 < rows ∧
            (y / 8 ≤ q ∧ q < y / 8 + rows ∨ q = y / 8 + rows ∧ y % 8 ≠ 0)))

/-- The two writes of page `p` with the given content (R221). -/
def pagePair (params : Params) (p : Nat) (content : List Byte) : List BusWrite :=
  [{ addr := 0x3C#7, bytes := [0x00#8, 0x00#8, params.colHiByte, 0xB0#8 ||| BitVec.ofNat 8 p] },
   { addr := 0x3C#7, bytes := 0x40#8 :: content }]

/-- The 128 bytes of page `p`, column 0 first (R76). -/
def pageBytes (s : State) (p : Nat) : List Byte := (List.range 128).map (fbRead s p)

/-- The pages whose dirty bit is 1, in ascending order (R224). -/
def dirtyPages (s : State) : List Nat := (List.range 8).filter (isDirty s.dirty)

/-! ### The parser and the decoder -/

/-- The words of the command in progress that have come so far (R40). -/
def pendingWords : Parse → List Word
  | .idle => []
  | .collect h none words _ => h :: words
  | .collect h (some height) words _ => h :: height.setWidth 32 :: words

/-- The parser waits for the height word of an image (R120). -/
def AwaitsHeight (h : Word) (p : Parse) : Prop := opField h = 0x6#4 ∧ ∃ need, p = .collect h none [] need

/-! ### Digits by repeated division (R164) -/

/-- The digits of a field of `k` characters, least-significant first found, most-significant first listed. -/
def divisionDigits : Nat → Nat → List Nat
  | _, 0 => []
  | n, k + 1 => divisionDigits (n / 10) k ++ [n % 10]

/-! ### Classes of commands -/

/-- The commands that leave every cell of the buffer alone (R32). -/
def leavesBuffer : Instr → Bool
  | .nop => true
  | .init => true
  | .render => true
  | .setCursor _ _ => true
  | .drawPixel _ _ => false
  | .drawPixels _ _ _ => false
  | .drawChar _ _ _ => false
  | .drawString _ _ _ => false
  | .drawNumber _ _ _ _ => false
  | .showImage _ _ _ _ _ => false
  | .clearData => false
  | .clearScreen => false
  | .lineTo _ _ => false

/-- The commands that may write on the bus (R43). -/
def usesBus : Instr → Bool
  | .init => true
  | .render => true
  | .clearData => true
  | .nop => false
  | .setCursor _ _ => false
  | .drawPixel _ _ => false
  | .drawPixels _ _ _ => false
  | .drawChar _ _ _ => false
  | .drawString _ _ _ => false
  | .drawNumber _ _ _ _ => false
  | .showImage _ _ _ _ _ => false
  | .clearScreen => false
  | .lineTo _ _ => false

end Sys2Proof.Machine
end

