-- ==== Sys2Proof/Certificates/Slice0/Obligations.lean ====
section
/-! DEFINITION. The statements about the FBD, for the provers. Each docstring names the rule of spec/ it formalises. -/

open Sys2Proof Sys2Proof.Machine

/-! ### Encoding -/

/-- Words written out from the opcode map of R104 and the assembly examples of 30_encoding.md and 95_test_vectors.md decode to
their commands: one for each family. -/
def Obligations.DecodeReadsWrittenWords : Prop :=
  decode [0x00000000#32] = .ok (.nop, []) ∧
  decode [0x10000D0A#32] = .ok (.drawPixel 10 13, []) ∧
  decode [0x20A51305#32] = .ok (.drawPixels 5 19 0xA5, []) ∧
  decode [0x40050000#32, 0x4C4C4548#32, 0x0000004F#32] = .ok (.drawString 0 0 [0x48, 0x45, 0x4C, 0x4C, 0x4F], []) ∧
  decode [0x50040903#32, 0x000004D2#32] = .ok (.drawNumber 3 9 1234 4, []) ∧
  decode [0x6002000A#32, 0x00000010#32, 0x04030201#32] = .ok (.showImage 10 0 2 16 [1, 2, 3, 4], []) ∧
  decode [0x70000000#32] = .ok (.clearData, []) ∧
  decode [0xB0000403#32] = .ok (.setCursor 3 4, []) ∧
  decode [0xC0000103#32] = .ok (.lineTo 3 1, [])

/-- Decoding the words of any well-formed command gives the command back and leaves the words after it. -/
def Obligations.DecodeInvertsEncode : Prop :=
  ∀ (i : Instr) (rest : List Word), i.wf = true → decode (encode i ++ rest) = .ok (i, rest)

/-- A decoded command is well-formed and its header is the first word it was decoded from, so the word `FAULT_INFO` takes is
the header word received (R254). -/
def Obligations.DecodedCommandKeepsItsHeader : Prop :=
  ∀ (words rest : List Word) (i : Instr), decode words = .ok (i, rest) →
    i.wf = true ∧ words.head? = some i.header

/-- A header word selects its command by `w & (0xF0000000 | RSVMASK) = OP << 28` (R104, its last sentence). -/
def Obligations.HeaderSelectsByMatchAndMask : Prop :=
  ∀ (w : Word) (op : Opcode),
    checkHeader w = .ok op ↔ w &&& (0xF0000000#32 ||| op.rsvMask) = op.toBits.setWidth 32 <<< 28

/-- R122: a header word with `OP` 0xD, 0xE or 0xF raises `ILLEGAL_OPCODE`, and no other header word does. -/
def Obligations.IllegalOpcodeFaults : Prop :=
  ∀ (s : State) (w : Word) (rest : List HostEvent),
    s.fault = false → s.parse = .idle → s.hostQueue = .word w :: rest →
      (13 ≤ (opField w).toNat →
        step s = .next (raise .illegalOpcode w { s with hostQueue := rest })) ∧
      ((opField w).toNat < 13 → checkHeader w ≠ .error .illegalOpcode)

/-- R123: a reserved bit of a header word, or of the height word of an image, raises `RESERVED_BITS`; a payload word never
faults, whatever its pad bytes. -/
def Obligations.ReservedBitsFault : Prop :=
  (∀ (s : State) (w : Word) (op : Opcode) (rest : List HostEvent),
    s.fault = false → s.parse = .idle → s.hostQueue = .word w :: rest →
      opField w = op.toBits → w &&& op.rsvMask ≠ 0#32 →
        step s = .next (raise .reservedBits w { s with hostQueue := rest })) ∧
  (∀ (s : State) (h w : Word) (rest : List HostEvent),
    s.fault = false → AwaitsHeight h s.parse → s.hostQueue = .word w :: rest →
      w.extractLsb' 8 24 ≠ 0#24 →
        step s = .next (raise .reservedBits h { s with hostQueue := rest })) ∧
  (∀ (h : Word) (aux : Option Byte) (words : List Word) (need : Nat) (w : Word),
    ¬ AwaitsHeight h (.collect h aux words need) →
      ∀ cause info, parserMove (.collect h aux words need) w ≠ .fault cause info)

/-- A height that is no multiple of 8 raises `IMAGE_HEIGHT` when the height word arrives, with the header word of the image in
`FAULT_INFO` (60_exceptions.md section 1, 30_encoding.md section 5). -/
def Obligations.ImageHeightFaultsAtTheHeightWord : Prop :=
  ∀ (s : State) (h w : Word) (rest : List HostEvent),
    s.fault = false → AwaitsHeight h s.parse → s.hostQueue = .word w :: rest →
      w.extractLsb' 8 24 = 0#24 → (w.extractLsb' 0 8).toNat % 8 ≠ 0 →
        step s = .next (raise .imageHeight h { s with hostQueue := rest })

/-! ### Steps -/

/-- A step runs the decoded command: when the words of the command in progress and the next word are a whole command, the step
is that command's execution, with the word taken off the port and the parser Idle. -/
def Obligations.StepRunsTheDecodedCommand : Prop :=
  ∀ (s : State) (w : Word) (rest : List HostEvent) (i : Instr),
    s.fault = false → s.parse.wf = true → s.hostQueue = .word w :: rest →
      decode (pendingWords s.parse ++ [w]) = .ok (i, []) →
        step s = exec i { s with hostQueue := rest, parse := .idle }

/-- The parser and the decoder agree: the words of a command, taken one a step by an Idle parser, run exactly the command the
decoder reads from them (R120, R121). -/
def Obligations.WordsOfACommandRunIt : Prop :=
  ∀ (s : State) (words : List Word) (i : Instr) (rest : List HostEvent),
    s.fault = false → s.parse = .idle → decode words = .ok (i, []) →
      s.hostQueue = words.map .word ++ rest →
        runSteps words.length s = exec i { s with hostQueue := rest }

/-- A command whose words have not all come has had no effect: only the parser has moved (20_memory.md section 5,
70_reset_and_hazards.md section 1). -/
def Obligations.PartialCommandHasNoEffect : Prop :=
  ∀ (s : State) (words : List Word) (rest : List HostEvent),
    s.fault = false → s.parse = .idle → decode words = .error .truncated →
      s.hostQueue = words.map .word ++ rest →
        ∃ p, runSteps words.length s = .next { s with parse := p, hostQueue := rest }

/-- R256: in the fault state a word is discarded and a read is still answered. -/
def Obligations.FaultStateDiscardsWords : Prop :=
  ∀ (s : State) (rest : List HostEvent), s.fault = true →
    (∀ w, s.hostQueue = .word w :: rest → step s = .next { s with hostQueue := rest }) ∧
    (∀ a, s.hostQueue = .read a :: rest →
      step s = .next { s with hostQueue := rest, readLog := s.readLog ++ [(a, regRead s a)] })

/-- R257: without a reset, nothing leaves the fault state and nothing of the FBD changes in it, for any number of steps. -/
def Obligations.FaultStateLastsUntilReset : Prop :=
  ∀ (k : Nat) (s : State), s.fault = true → (.reset : HostEvent) ∉ s.hostQueue →
    ∃ queue log, runSteps k s = .next { s with hostQueue := queue, readLog := log }

/-- R74: a read changes nothing of the FBD, in the fault state too, and two reads of one index with no command between them
return the same value. -/
def Obligations.ReadsHaveNoSideEffects : Prop :=
  ∀ (s : State) (a : BitVec 12) (rest : List HostEvent),
    s.hostQueue = .read a :: .read a :: rest →
      runSteps 2 s =
        .next { s with hostQueue := rest, readLog := s.readLog ++ [(a, regRead s a), (a, regRead s a)] }

/-- The reset signal puts every element at its reset value, the parser's partial command included, and issues no bus write; the
parameters stay; every cell is a free draw; the state after reset holds the same values (70_reset_and_hazards.md section 1).
Two clauses are the MODEL's choice and no rule of the spec: that the host's coming actions stay, `t.hostQueue = rest`, and that
the draws are those numbered `s.epoch + 1` (log 5, DESIGN CHOICE, unsafe; the form of a draw is log 2's). -/
def Obligations.ResetRestoresEveryRegister : Prop :=
  (∀ (s : State) (rest : List HostEvent), s.hostQueue = .reset :: rest →
    ∃ t, step s = .next t ∧
      (∀ p, p < 8 → ∀ c, c < 128 → fbRead t p c = Config.fbReset (s.epoch + 1) (128 * p + c)) ∧
      t.dirty = 0x00#8 ∧ t.params = s.params ∧ t.cur = none ∧ t.prev = none ∧ t.parse = .idle ∧
      t.fault = false ∧ t.faultCause = 0#4 ∧ t.faultInfo = 0x00000000#32 ∧ t.busLog = [] ∧ t.hostQueue = rest) ∧
  (∀ p, p < 8 → ∀ c, c < 128 → fbRead State.reset p c = Config.fbReset State.reset.epoch (128 * p + c)) ∧
  State.reset.dirty = 0x00#8 ∧ State.reset.params = Config.params ∧ State.reset.cur = none ∧ State.reset.prev = none ∧
    State.reset.parse = .idle ∧ State.reset.fault = false ∧ State.reset.faultCause = 0#4 ∧
    State.reset.faultInfo = 0x00000000#32 ∧ State.reset.busLog = []

/-! ### Invariants -/

/-- The good states' invariant holds at reset. -/
def Obligations.ResetIsGood : Prop := Inv State.reset

/-- Every step keeps the invariant: the buffer's memory stays canonical and inside its 1024 cells, the parser state stays one
that R120 makes, the fault registers stay consistent with causes 1 to 6, a previous cursor point stays beside a current one,
and the bus log stays a sequence of whole bursts and whole page pairs (R226). -/
def Obligations.StepKeepsGoodStates : Prop :=
  ∀ s t : State, Inv s → step s = .next t → Inv t

/-- From a good state no run stops: the FBD accepts every word, read and reset (R87). -/
def Obligations.GoodRunsNeverStop : Prop :=
  ∀ (k : Nat) (s : State), Inv s → ∃ t, runSteps k s = .next t ∧ Inv t

/-- Nothing changes the parameters, the Origin and the glyph table among them (00_scope.md section 3, 10_state.md section 4). -/
def Obligations.StepKeepsTheParameters : Prop :=
  ∀ s t : State, step s = .next t → t.params = s.params

/-- R32: `RENDER`, `INIT`, `NOP` and `SET_CURSOR` leave every cell alone, and so does the read port. -/
def Obligations.OnlyDrawingAndClearsWriteTheBuffer : Prop :=
  (∀ (i : Instr) (s : State), leavesBuffer i = true → ∃ t, exec i s = .next t ∧ t.fb = s.fb ∧ SameCells s t) ∧
  (∀ (a : BitVec 12) (s : State), (answerRead a s).fb = s.fb ∧ SameCells s (answerRead a s))

/-- Only `INIT`, `RENDER` and `CLEAR_DATA` append to the bus log; no command takes anything out of it (10_state.md section 9,
44_transport.md section 5). -/
def Obligations.OnlyFlushingCommandsUseTheBus : Prop :=
  ∀ (i : Instr) (s : State),
    ∃ t, exec i s = .next t ∧ (∃ more, t.busLog = s.busLog ++ more) ∧ (usesBus i = false → t.busLog = s.busLog)

/-- No command but the flushing ones clears a dirty bit (10_state.md section 3). -/
def Obligations.OnlyFlushesClearDirtyBits : Prop :=
  ∀ (i : Instr) (s : State) (p : Nat), usesBus i = false → isDirty s.dirty p = true →
    ∃ t, exec i s = .next t ∧ isDirty t.dirty p = true

/-- R254: raising a fault writes `FAULT`, `FAULT_CAUSE`, `FAULT_INFO` and the parser, and nothing else; a command that faults
does exactly that with its header word: no cell, no dirty bit, no cursor point, no bus write. -/
def Obligations.FaultingCommandHasNoOtherEffect : Prop :=
  (∀ (cause : Cause) (h : Word) (s : State),
    raise cause h s = { s with fault := true, faultCause := cause.code, faultInfo := h, parse := .idle }) ∧
  (∀ (i : Instr) (s : State), s.fault = false →
    ∃ t, exec i s = .next t ∧ (t.fault = true → ∃ cause, FaultEntered cause i.header s t))

/-! ### Drawing primitives -/

/-- R140: `Plot` sets one bit of one cell and one dirty bit, and changes nothing else. -/
def Obligations.PlotSetsOnePixel : Prop :=
  ∀ (X Y : Nat) (s : State), X < 128 → Y < 64 →
    (∀ p, p < 8 → ∀ c, c < 128 → ∀ b, b < 8 →
      (fbRead (plot X Y s) p c).getLsbD b =
        ((fbRead s p c).getLsbD b || decide (p = Y / 8 ∧ c = X ∧ b = Y % 8))) ∧
    (∀ q, q < 8 → isDirty (plot X Y s).dirty q = (isDirty s.dirty q || decide (q = Y / 8))) ∧
    OnlyDrawn s (plot X Y s)

/-- R142, R144: `Pixels` overwrites one cell at an aligned row and ORs the slice over two cells otherwise, and marks exactly the
pages it addresses, whatever the data. -/
def Obligations.PixelsWritesOneSlice : Prop :=
  ∀ (x y : Nat) (v : Byte) (s : State), (∀ cell ∈ pixCells x y, cell.1 < 8 ∧ cell.2 < 128) →
    (∀ p, p < 8 → ∀ c, c < 128 → ∀ b, b < 8 →
      (fbRead (pixels x y v s) p c).getLsbD b =
        if c = x ∧ y ≤ 8 * p + b ∧ 8 * p + b < y + 8 then
          (if y % 8 = 0 then v.getLsbD (8 * p + b - y)
           else (fbRead s p c).getLsbD b || v.getLsbD (8 * p + b - y))
        else (fbRead s p c).getLsbD b) ∧
    (∀ q, q < 8 → isDirty (pixels x y v s).dirty q = (isDirty s.dirty q || (pixCells x y).any fun cell => cell.1 == q)) ∧
    OnlyDrawn s (pixels x y v s)

/-- R145: an unaligned slice on two blank cells recombines to its byte; an aligned one is its byte whatever the cell held. -/
def Obligations.UnalignedSliceRecombines : Prop :=
  ∀ (x y : Nat) (v : Byte) (s : State), sliceInRange { x := x, y := y, v := v } = true →
    (y % 8 = 0 → fbRead (pixels x y v s) (y / 8) x = v) ∧
    (y % 8 ≠ 0 → fbRead s (y / 8) x = 0 → fbRead s (y / 8 + 1) x = 0 →
      (fbRead (pixels x y v s) (y / 8) x >>> (y % 8)) |||
        (fbRead (pixels x y v s) (y / 8 + 1) x <<< (8 - y % 8)) = v)

/-! ### Commands -/

/-- R220: `NOP` changes nothing; its only word is 0; while a payload is collected the word 0 is payload. -/
def Obligations.NopRule : Prop :=
  (∀ s : State, exec .nop s = .next s) ∧
  (∀ w : Word, opField w = 0x0#4 →
    decode [w] = if w = 0#32 then .ok (.nop, []) else .error (.badWord .reservedBits)) ∧
  (∀ (s : State) (h : Word) (aux : Option Byte) (words : List Word) (need : Nat) (rest : List HostEvent),
    s.fault = false → s.parse = .collect h aux words need → ¬ AwaitsHeight h s.parse → words.length + 1 < need →
      s.hostQueue = .word 0#32 :: rest →
        step s = .next { s with parse := .collect h aux (words ++ [0#32]) need, hostQueue := rest })

/-- R141: `DRAW_PIXEL`. -/
def Obligations.DrawPixelRule : Prop :=
  (∀ w : Word, opField w = 0x1#4 →
    decode [w] =
      if w.extractLsb' 16 12 = 0#12 then .ok (.drawPixel (w.extractLsb' 0 8) (w.extractLsb' 8 8), [])
      else .error (.badWord .reservedBits)) ∧
  (∀ (x y : Byte) (s : State),
    x.toNat + s.params.originX.toNat < 128 → y.toNat + s.params.originY.toNat < 64 →
      ∃ t, exec (.drawPixel x y) s = .next t ∧ OnlyDrawn s t ∧
        t.dirty = s.dirty ||| (1#8 <<< ((y.toNat + s.params.originY.toNat) / 8)) ∧
        ∀ p, p < 8 → ∀ c, c < 128 →
          fbRead t p c =
            if c = x.toNat + s.params.originX.toNat ∧ p = (y.toNat + s.params.originY.toNat) / 8 then
              fbRead s p c ||| (1#8 <<< ((y.toNat + s.params.originY.toNat) % 8))
            else fbRead s p c) ∧
  (∀ (x y : Byte) (s : State),
    128 ≤ x.toNat + s.params.originX.toNat ∨ 64 ≤ y.toNat + s.params.originY.toNat →
      ∃ t, exec (.drawPixel x y) s = .next t ∧ FaultEntered .coordRange (Instr.drawPixel x y).header s t)

/-- R143: `DRAW_PIXELS`. -/
def Obligations.DrawPixelsRule : Prop :=
  (∀ w : Word, opField w = 0x2#4 →
    decode [w] =
      if w.extractLsb' 24 4 = 0#4 then
        .ok (.drawPixels (w.extractLsb' 0 8) (w.extractLsb' 8 8) (w.extractLsb' 16 8), [])
      else .error (.badWord .reservedBits)) ∧
  (∀ (x y v : Byte) (s : State),
    x.toNat < 128 → y.toNat < 64 → ¬ (y.toNat % 8 ≠ 0 ∧ y.toNat / 8 = 7) →
      ∃ t, exec (.drawPixels x y v) s = .next t ∧ OnlyDrawn s t ∧
        (∀ q, q < 8 →
          isDirty t.dirty q =
            (isDirty s.dirty q ||
              decide (q = y.toNat / 8 ∨ q = y.toNat / 8 + 1 ∧ y.toNat % 8 ≠ 0))) ∧
        ∀ p, p < 8 → ∀ c, c < 128 →
          fbRead t p c =
            if c = x.toNat ∧ p = y.toNat / 8 then
              if y.toNat % 8 = 0 then v else fbRead s p c ||| (v <<< (y.toNat % 8))
            else if c = x.toNat ∧ p = y.toNat / 8 + 1 ∧ y.toNat % 8 ≠ 0 then
              fbRead s p c ||| (v >>> (8 - y.toNat % 8))
            else fbRead s p c) ∧
  (∀ (x y v : Byte) (s : State),
    128 ≤ x.toNat ∨ 64 ≤ y.toNat ∨ (y.toNat % 8 ≠ 0 ∧ y.toNat / 8 = 7) →
      ∃ t, exec (.drawPixels x y v) s = .next t ∧ FaultEntered .coordRange (Instr.drawPixels x y v).header s t)

/-- R42: a character in range has an entry of six bytes in the glyph table, and `G(c)[k]` is byte `k` of it. -/
def Obligations.GlyphByteReadsTheTable : Prop :=
  ∀ (params : Params) (c : Byte), params.Wf → charInRange params c = true →
    ∃ g : Glyph, params.glyphRom[c.toNat - 0x20]? = some g ∧
      ∀ k, (hk : k < 6) → glyphByte params c k = g[k]

/-- R160: `DRAW_CHAR`. -/
def Obligations.DrawCharRule : Prop :=
  (∀ w : Word, opField w = 0x3#4 →
    decode [w] =
      if w.extractLsb' 24 4 = 0#4 then
        .ok (.drawChar (w.extractLsb' 0 8) (w.extractLsb' 8 8) (w.extractLsb' 16 8), [])
      else .error (.badWord .reservedBits)) ∧
  (∀ (x y c : Byte) (s : State),
    0x20 ≤ c.toNat → c.toNat ≤ s.params.glyphLast.toNat → x.toNat ≤ 122 → y.toNat ≤ 56 →
      ∃ t, exec (.drawChar x y c) s = .next t ∧ OnlyDrawn s t ∧ TextDrawn s t x.toNat y.toNat [c]) ∧
  (∀ (x y c : Byte) (s : State),
    c.toNat < 0x20 ∨ s.params.glyphLast.toNat < c.toNat →
      ∃ t, exec (.drawChar x y c) s = .next t ∧ FaultEntered .charRange (Instr.drawChar x y c).header s t) ∧
  (∀ (x y c : Byte) (s : State),
    0x20 ≤ c.toNat → c.toNat ≤ s.params.glyphLast.toNat → 122 < x.toNat ∨ 56 < y.toNat →
      ∃ t, exec (.drawChar x y c) s = .next t ∧ FaultEntered .coordRange (Instr.drawChar x y c).header s t)

/-- R162: `DRAW_STRING`. -/
def Obligations.DrawStringRule : Prop :=
  (∀ (w : Word) (words : List Word), opField w = 0x4#4 → words.length = ((w.extractLsb' 16 8).toNat + 3) / 4 →
    decode (w :: words) =
      if w.extractLsb' 24 4 = 0#4 then
        .ok (.drawString (w.extractLsb' 0 8) (w.extractLsb' 8 8)
          ((payloadBytes words).take (w.extractLsb' 16 8).toNat), [])
      else .error (.badWord .reservedBits)) ∧
  (∀ (x y : Byte) (text : List Byte) (s : State),
    (∀ c ∈ text, 0x20 ≤ c.toNat ∧ c.toNat ≤ s.params.glyphLast.toNat) →
      text = [] ∨ x.toNat + 6 * text.length ≤ 128 ∧ y.toNat ≤ 56 →
        ∃ t, exec (.drawString x y text) s = .next t ∧ OnlyDrawn s t ∧ TextDrawn s t x.toNat y.toNat text) ∧
  (∀ (x y : Byte) (s : State), exec (.drawString x y []) s = .next s) ∧
  (∀ (x y : Byte) (text : List Byte) (s : State),
    (∃ c ∈ text, c.toNat < 0x20 ∨ s.params.glyphLast.toNat < c.toNat) →
      ∃ t, exec (.drawString x y text) s = .next t ∧
        FaultEntered .charRange (Instr.drawString x y text).header s t) ∧
  (∀ (x y : Byte) (text : List Byte) (s : State),
    (∀ c ∈ text, 0x20 ≤ c.toNat ∧ c.toNat ≤ s.params.glyphLast.toNat) →
      text ≠ [] → 128 < x.toNat + 6 * text.length ∨ 56 < y.toNat →
        ∃ t, exec (.drawString x y text) s = .next t ∧
          FaultEntered .coordRange (Instr.drawString x y text).header s t)

/-- R164: digit `i` of the field is `(n div 10^(digits - 1 - i)) mod 10`, and the same digits come out of repeated division, for
every number and every width; the characters drawn are those digits. -/
def Obligations.DigitsByRepeatedDivision : Prop :=
  ∀ n digits : Nat,
    (List.range digits).map (fun i => n / 10 ^ (digits - 1 - i) % 10) = divisionDigits n digits ∧
    numberChars n digits = (divisionDigits n digits).map fun d => BitVec.ofNat 8 (0x30 + d)

/-- R165: `DRAW_NUMBER`. -/
def Obligations.DrawNumberRule : Prop :=
  (∀ w n : Word, opField w = 0x5#4 →
    decode [w, n] =
      if w.extractLsb' 24 4 = 0#4 then
        .ok (.drawNumber (w.extractLsb' 0 8) (w.extractLsb' 8 8) n (w.extractLsb' 16 8), [])
      else .error (.badWord .reservedBits)) ∧
  (∀ (x y : Byte) (n : Word) (digits : Byte) (s : State),
    digits = 0 ∨ x.toNat + 6 * digits.toNat ≤ 128 ∧ y.toNat ≤ 56 →
      ∃ t, exec (.drawNumber x y n digits) s = .next t ∧ OnlyDrawn s t ∧
        TextDrawn s t x.toNat y.toNat
          ((List.range digits.toNat).map fun i =>
            BitVec.ofNat 8 (0x30 + n.toNat / 10 ^ (digits.toNat - 1 - i) % 10))) ∧
  (∀ (x y : Byte) (n : Word) (s : State), exec (.drawNumber x y n 0) s = .next s) ∧
  (∀ (x y : Byte) (n : Word) (digits : Byte) (s : State),
    digits ≠ 0 → 128 < x.toNat + 6 * digits.toNat ∨ 56 < y.toNat →
      ∃ t, exec (.drawNumber x y n digits) s = .next t ∧
        FaultEntered .coordRange (Instr.drawNumber x y n digits).header s t)

/-- With the parameters R8 admits, the drawing of a number is that of its digits as a string, and no digit is outside the glyph
table (41_raster_text.md section 3). -/
def Obligations.DrawNumberIsDrawString : Prop :=
  ∀ (x y : Byte) (n : Word) (digits : Byte) (s : State), s.params.Wf →
    (∀ c ∈ numberChars n.toNat digits.toNat, 0x30 ≤ c.toNat ∧ c.toNat ≤ 0x39 ∧ charInRange s.params c = true) ∧
    (x.toNat + 6 * digits.toNat ≤ 128 → y.toNat ≤ 56 →
      exec (.drawNumber x y n digits) s = exec (.drawString x y (numberChars n.toNat digits.toNat)) s)

/-- R180: `SHOW_IMAGE`. -/
def Obligations.ShowImageRule : Prop :=
  (∀ (w hw : Word) (words : List Word), opField w = 0x6#4 → w.extractLsb' 24 4 = 0#4 → hw.extractLsb' 8 24 = 0#24 →
    (hw.toNat % 8 ≠ 0 → decode (w :: hw :: words) = .error (.badWord .imageHeight)) ∧
    (hw.toNat % 8 = 0 → words.length = ((w.extractLsb' 16 8).toNat * (hw.toNat / 8) + 3) / 4 →
      decode (w :: hw :: words) =
        .ok (.showImage (w.extractLsb' 0 8) (w.extractLsb' 8 8) (w.extractLsb' 16 8) (hw.extractLsb' 0 8)
          ((payloadBytes words).take ((w.extractLsb' 16 8).toNat * (hw.toNat / 8))), []))) ∧
  (∀ (w hw : Word) (words : List Word), opField w = 0x6#4 →
    w.extractLsb' 24 4 ≠ 0#4 ∨ hw.extractLsb' 8 24 ≠ 0#24 →
      decode (w :: hw :: words) = .error (.badWord .reservedBits)) ∧
  (∀ (x y width height : Byte) (data : List Byte) (s : State), (Instr.showImage x y width height data).wf = true →
    width = 0 ∨ height = 0 ∨
      x.toNat + width.toNat ≤ 128 ∧
        (if y.toNat % 8 = 0 then y.toNat / 8 + height.toNat / 8 ≤ 8 else y.toNat / 8 + height.toNat / 8 ≤ 7) →
      ∃ t, exec (.showImage x y width height data) s = .next t ∧ OnlyDrawn s t ∧
        ImageDrawn s t x.toNat y.toNat width.toNat (height.toNat / 8) data) ∧
  (∀ (x y width height : Byte) (s : State), width = 0 ∨ height = 0 →
    (Instr.showImage x y width height []).wf = true → exec (.showImage x y width height []) s = .next s) ∧
  (∀ (x y width height : Byte) (data : List Byte) (s : State), (Instr.showImage x y width height data).wf = true →
    width ≠ 0 → height ≠ 0 →
      128 < x.toNat + width.toNat ∨
        (if y.toNat % 8 = 0 then 8 < y.toNat / 8 + height.toNat / 8 else 7 < y.toNat / 8 + height.toNat / 8) →
        ∃ t, exec (.showImage x y width height data) s = .next t ∧
          FaultEntered .coordRange (Instr.showImage x y width height data).header s t)

/-- R184: `CLEAR_DATA` zeroes the dirty pages only, sends each as 128 zero bytes in ascending order, and ends with the mask 0. -/
def Obligations.ClearDataRule : Prop :=
  (∀ w : Word, opField w = 0x7#4 →
    decode [w] = if w = 0x70000000#32 then .ok (.clearData, []) else .error (.badWord .reservedBits)) ∧
  (∀ s : State, ∃ t, exec .clearData s = .next t ∧
    (∀ p, p < 8 → ∀ c, c < 128 → fbRead t p c = if isDirty s.dirty p then 0 else fbRead s p c) ∧
    t.dirty = 0x00#8 ∧
    t.busLog = s.busLog ++ (dirtyPages s).flatMap (fun p => pagePair s.params p (List.replicate 128 0)) ∧
    SameHost s t ∧ SameControl s t ∧ SameCursors s t)

/-- R186: `CLEAR_SCREEN` zeroes every cell and changes nothing else; every cell index of the read port then reads 0. -/
def Obligations.ClearScreenRule : Prop :=
  (∀ w : Word, opField w = 0x8#4 →
    decode [w] = if w = 0x80000000#32 then .ok (.clearScreen, []) else .error (.badWord .reservedBits)) ∧
  (∀ s : State, ∃ t, exec .clearScreen s = .next t ∧ OnlyDrawn s t ∧ t.dirty = s.dirty ∧
    (∀ p, p < 8 → ∀ c, c < 128 → fbRead t p c = 0) ∧
    (∀ a : BitVec 12, a.toNat < 0x400 → regRead t a = 0#32))

/-- R222: `INIT` sends the init burst as one write, then all eight pages as they stand, and ends with the mask 0: 17 writes. -/
def Obligations.InitRule : Prop :=
  (∀ w : Word, opField w = 0x9#4 →
    decode [w] = if w = 0x90000000#32 then .ok (.init, []) else .error (.badWord .reservedBits)) ∧
  (∀ s : State, ∃ t, exec .init s = .next t ∧ OnlyFlushed s t ∧ t.dirty = 0x00#8 ∧
    t.busLog =
      s.busLog ++
        { addr := 0x3C#7, bytes := s.params.initSeq.toList } ::
          (List.range 8).flatMap (fun p => pagePair s.params p (pageBytes s p)) ∧
    t.busLog.length = s.busLog.length + 17)

/-- R224, R225: `RENDER` sends exactly the dirty pages, in ascending order, each as a command write and a data write of 129
bytes, clears the mask, and changes nothing else. -/
def Obligations.RenderRule : Prop :=
  (∀ w : Word, opField w = 0xA#4 →
    decode [w] = if w = 0xA0000000#32 then .ok (.render, []) else .error (.badWord .reservedBits)) ∧
  (∀ s : State,
    exec .render s =
      .next { s with
        dirty := 0x00#8
        busLog := s.busLog ++ (dirtyPages s).flatMap fun p => pagePair s.params p (pageBytes s p) }) ∧
  (∀ (s : State) (p : Nat), (0x40#8 :: pageBytes s p).length = 129)

/-- A second `RENDER` sends nothing and changes nothing (44_transport.md section 3, corner cases). -/
def Obligations.SecondRenderSendsNothing : Prop :=
  ∀ s t : State, exec .render s = .next t → exec .render t = .next t

/-- R202: `SET_CURSOR`. -/
def Obligations.SetCursorRule : Prop :=
  (∀ w : Word, opField w = 0xB#4 →
    decode [w] =
      if w.extractLsb' 16 12 = 0#12 then .ok (.setCursor (w.extractLsb' 0 8) (w.extractLsb' 8 8), [])
      else .error (.badWord .reservedBits)) ∧
  (∀ (x y : Byte) (s : State), ∃ t, exec (.setCursor x y) s = .next t ∧
    t.cur = some { x := x, y := y } ∧ t.prev = s.cur ∧ OnlyMovedCursor s t ∧
    (regRead t 0x400).getLsbD 8 = true ∧ (regRead t 0x400).getLsbD 9 = s.cur.isSome)

/-- R39: after an update the previous point is what the current one was; after two from reset both are set. -/
def Obligations.CursorUpdateShiftsPoints : Prop :=
  (∀ (v : Point) (s : State), (updateCursor v s).prev = s.cur ∧ (updateCursor v s).cur = some v) ∧
  (∀ v w : Point,
    (updateCursor v State.reset).prev = none ∧
    (updateCursor w (updateCursor v State.reset)).prev = some v ∧
    (updateCursor w (updateCursor v State.reset)).cur = some w)

/-- R204: `LINE_TO`. The points are those of `LinePoints` (R200), offset by the Origin. -/
def Obligations.LineToRule : Prop :=
  (∀ w : Word, opField w = 0xC#4 →
    decode [w] =
      if w.extractLsb' 16 12 = 0#12 then .ok (.lineTo (w.extractLsb' 0 8) (w.extractLsb' 8 8), [])
      else .error (.badWord .reservedBits)) ∧
  (∀ (x y : Byte) (s : State), s.cur = none →
    ∃ t, exec (.lineTo x y) s = .next t ∧ FaultEntered .cursorUnset (Instr.lineTo x y).header s t) ∧
  (∀ (x y : Byte) (q : Point) (s : State), s.cur = some q →
    (∃ u ∈ linePoints q.x.toNat q.y.toNat x.toNat y.toNat,
      128 ≤ u.1 + s.params.originX.toNat ∨ 64 ≤ u.2 + s.params.originY.toNat) →
      ∃ t, exec (.lineTo x y) s = .next t ∧ FaultEntered .coordRange (Instr.lineTo x y).header s t) ∧
  (∀ (x y : Byte) (q : Point) (s : State), s.cur = some q → s.params.Wf →
    (∀ u ∈ linePoints q.x.toNat q.y.toNat x.toNat y.toNat,
      u.1 + s.params.originX.toNat < 128 ∧ u.2 + s.params.originY.toNat < 64) →
      ∃ t, exec (.lineTo x y) s = .next t ∧
        t.cur = some { x := x, y := y } ∧ t.prev = some q ∧
        (∀ p, p < 8 → ∀ c, c < 128 → ∀ b, b < 8 →
          ((fbRead t p c).getLsbD b = true ↔
            (fbRead s p c).getLsbD b = true ∨
              ∃ u ∈ linePoints q.x.toNat q.y.toNat x.toNat y.toNat,
                u.1.toNat + s.params.originX.toNat = c ∧ u.2.toNat + s.params.originY.toNat = 8 * p + b)) ∧
        (∀ p, p < 8 →
          (isDirty t.dirty p = true ↔
            isDirty s.dirty p = true ∨
              ∃ u ∈ linePoints q.x.toNat q.y.toNat x.toNat y.toNat,
                (u.2.toNat + s.params.originY.toNat) / 8 = p)) ∧
        SameHost s t ∧ SameControl s t ∧ t.busLog = s.busLog)

/-! ### Lines -/

/-- The points of a line start at its first end and stop at its second, and there are `max(|dx|, |dy|) + 1` of them; the loop
never runs out of rounds, so more rounds give the same points (43_raster_line.md section 1). The bound on the rounds is the
model's (log 7, DEDUCED): R200's loop has none. -/
def Obligations.LineReachesItsEnd : Prop :=
  ∀ x0 y0 x1 y1 : Int,
    (linePoints x0 y0 x1 y1).head? = some (x0, y0) ∧
    (linePoints x0 y0 x1 y1).getLast? = some (x1, y1) ∧
    (linePoints x0 y0 x1 y1).length = max (x1 - x0).natAbs (y1 - y0).natAbs + 1 ∧
    ∀ more : Nat,
      lineLoop x1 y1 (x1 - x0).natAbs (-(y1 - y0).natAbs) (if x0 < x1 then 1 else -1) (if y0 < y1 then 1 else -1)
        ((x1 - x0).natAbs + (y1 - y0).natAbs + 1 + more) ((x1 - x0).natAbs + -(y1 - y0).natAbs) x0 y0 =
      linePoints x0 y0 x1 y1

/-- The points of a line lie in the box of its ends, all differ, and neighbours differ by at most 1 in each coordinate
(43_raster_line.md section 1). -/
def Obligations.LineIsConnectedInItsBox : Prop :=
  ∀ x0 y0 x1 y1 : Int,
    (∀ u ∈ linePoints x0 y0 x1 y1, min x0 x1 ≤ u.1 ∧ u.1 ≤ max x0 x1 ∧ min y0 y1 ≤ u.2 ∧ u.2 ≤ max y0 y1) ∧
    (linePoints x0 y0 x1 y1).Nodup ∧
    ∀ (k : Nat) (u v : Int × Int),
      (linePoints x0 y0 x1 y1)[k]? = some u → (linePoints x0 y0 x1 y1)[k + 1]? = some v →
        (v.1 - u.1).natAbs ≤ 1 ∧ (v.2 - u.2).natAbs ≤ 1

/-- `LINE_TO` from a set cursor raises `COORD_RANGE` exactly when an end is outside the buffer, and otherwise moves the cursor
and raises nothing (43_raster_line.md section 3, a derived sentence). -/
def Obligations.LineToFaultsExactlyWhenAnEndIsOutside : Prop :=
  ∀ (x y : Byte) (q : Point) (s : State), s.cur = some q → s.params.Wf →
    ((q.x.toNat + s.params.originX.toNat < 128 ∧ q.y.toNat + s.params.originY.toNat < 64 ∧
        x.toNat + s.params.originX.toNat < 128 ∧ y.toNat + s.params.originY.toNat < 64) →
      ∃ t, exec (.lineTo x y) s = .next t ∧ t.fault = s.fault ∧ t.cur = some { x := x, y := y } ∧ t.prev = some q) ∧
    (¬ (q.x.toNat + s.params.originX.toNat < 128 ∧ q.y.toNat + s.params.originY.toNat < 64 ∧
        x.toNat + s.params.originX.toNat < 128 ∧ y.toNat + s.params.originY.toNat < 64) →
      ∃ t, exec (.lineTo x y) s = .next t ∧ FaultEntered .coordRange (Instr.lineTo x y).header s t)

/-! ### The read port -/

/-- R72: the map of the read port. -/
def Obligations.ReadPortMap : Prop :=
  ∀ s : State,
    (∀ (a : BitVec 12) (p c : Nat), p < 8 → c < 128 → a.toNat = 128 * p + c →
      regRead s a = (fbRead s p c).setWidth 32) ∧
    regRead s 0x400 = statusReg s ∧ regRead s 0x401 = cursorReg s ∧ regRead s 0x402 = originReg s ∧
    regRead s 0x403 = paramsReg s ∧ regRead s 0x404 = s.faultInfo ∧
    ∀ a : BitVec 12, 0x405 ≤ a.toNat → regRead s a = 0#32

/-- R73: a read of an unmapped index answers 0 and raises no fault. -/
def Obligations.UnmappedReadsGiveZero : Prop :=
  ∀ (s : State) (a : BitVec 12) (rest : List HostEvent), 0x405 ≤ a.toNat → s.hostQueue = .read a :: rest →
    step s = .next { s with hostQueue := rest, readLog := s.readLog ++ [(a, 0#32)] }

/-- R44: every field of `STATUS`, and its value at reset. -/
def Obligations.StatusFields : Prop :=
  (∀ s : State,
    (regRead s 0x400).extractLsb' 0 1 = BitVec.ofBool s.fault ∧
    (regRead s 0x400).extractLsb' 1 3 = 0#3 ∧
    (regRead s 0x400).extractLsb' 4 4 = s.faultCause ∧
    (regRead s 0x400).extractLsb' 8 1 = BitVec.ofBool s.cur.isSome ∧
    (regRead s 0x400).extractLsb' 9 1 = BitVec.ofBool s.prev.isSome ∧
    (regRead s 0x400).extractLsb' 10 1 = BitVec.ofBool (decide (s.parse ≠ .idle)) ∧
    (regRead s 0x400).extractLsb' 11 5 = 0#5 ∧
    (regRead s 0x400).extractLsb' 16 8 = s.dirty ∧
    (regRead s 0x400).extractLsb' 24 8 = 0#8) ∧
  regRead State.reset 0x400 = 0#32

/-- R45: every field of `CURSOR`; the fields of a point that is none read 0; its value at reset. -/
def Obligations.CursorFields : Prop :=
  (∀ s : State,
    (∀ q, s.cur = some q →
      (regRead s 0x401).extractLsb' 0 8 = q.x ∧ (regRead s 0x401).extractLsb' 8 8 = q.y) ∧
    (s.cur = none → (regRead s 0x401).extractLsb' 0 16 = 0#16) ∧
    (∀ q, s.prev = some q →
      (regRead s 0x401).extractLsb' 16 8 = q.x ∧ (regRead s 0x401).extractLsb' 24 8 = q.y) ∧
    (s.prev = none → (regRead s 0x401).extractLsb' 16 16 = 0#16) ∧
    (regRead s 0x400).getLsbD 8 = s.cur.isSome ∧ (regRead s 0x400).getLsbD 9 = s.prev.isSome) ∧
  regRead State.reset 0x401 = 0#32

/-- R46, R47: every field of `ORIGIN` and of `PARAMS`. -/
def Obligations.OriginAndParamsFields : Prop :=
  ∀ s : State,
    (regRead s 0x402).extractLsb' 0 8 = s.params.originX ∧
    (regRead s 0x402).extractLsb' 8 8 = s.params.originY ∧
    (regRead s 0x402).extractLsb' 16 16 = 0#16 ∧
    (regRead s 0x403).extractLsb' 0 8 = 0x80#8 ∧
    (regRead s 0x403).extractLsb' 8 8 = 0x08#8 ∧
    (regRead s 0x403).extractLsb' 16 8 = 0x06#8 ∧
    (regRead s 0x403).extractLsb' 24 8 = s.params.glyphLast ∧
    regRead s 0x403 = (s.params.glyphLast.setWidth 32 <<< 24) ||| 0x00060880#32

/-! ### The bus and the boot -/

/-- R227: what the bus answers changes nothing: the three flushing commands have the same result over every bus. -/
def Obligations.BusFailureChangesNothing : Prop :=
  ∀ (bus : Nat → BusResult) (s : State),
    exec .render s = .next (renderWith bus s) ∧
    exec .init s = .next (initWith bus s) ∧
    exec .clearData s = .next (clearDataWith bus s)

/-- The recommended boot order blanks the buffer and the panel: after `CLEAR_SCREEN`, `INIT` and `SET_CURSOR` every cell is 0,
the mask is 0, the cursor is set, and the log has gained the burst and eight pages of 128 zero bytes
(70_reset_and_hazards.md section 2). -/
def Obligations.BootOrderSendsABlankBuffer : Prop :=
  ∀ (x y : Byte) (s : State), ∃ t u v,
    exec .clearScreen s = .next t ∧ exec .init t = .next u ∧ exec (.setCursor x y) u = .next v ∧
    (∀ p, p < 8 → ∀ c, c < 128 → fbRead v p c = 0) ∧
    v.dirty = 0x00#8 ∧ v.cur = some { x := x, y := y } ∧
    v.busLog =
      s.busLog ++
        { addr := 0x3C#7, bytes := s.params.initSeq.toList } ::
          (List.range 8).flatMap (fun p => pagePair s.params p (List.replicate 128 0))
end

