-- ==== Sys2Proof/Laws/Encoding.lean ====
section
/-! SUPPORT. The fields of a packed header, the bytes of a packed word, and the checks of a packed header. -/

namespace Sys2Proof

theorem append_toNat {n m : Nat} (x : BitVec n) (y : BitVec m) : (x ++ y).toNat = x.toNat * 2 ^ m + y.toNat := by
  rw [BitVec.toNat_append, ← Nat.shiftLeft_add_eq_or_of_lt y.isLt, Nat.shiftLeft_eq]

/-- A header as a number (R126). -/
theorem packHeader_toNat (op : Opcode) (c b a : Byte) :
    (packHeader op c b a).toNat = op.toBits.toNat * 268435456 + c.toNat * 65536 + b.toNat * 256 + a.toNat := by
  have h : (packHeader op c b a).toNat = (op.toBits ++ 0#4 ++ c ++ b ++ a).toNat := rfl
  rw [h, append_toNat, append_toNat, append_toNat, append_toNat]
  simp
  omega

theorem opField_packHeader (op : Opcode) (c b a : Byte) : opField (packHeader op c b a) = op.toBits := by
  apply BitVec.eq_of_toNat_eq
  have := op.toBits.isLt; have := c.isLt; have := b.isLt; have := a.isLt
  rw [opField, BitVec.extractLsb'_toNat, packHeader_toNat, Nat.shiftRight_eq_div_pow]
  omega

theorem fieldC_packHeader (op : Opcode) (c b a : Byte) : fieldC (packHeader op c b a) = c := by
  apply BitVec.eq_of_toNat_eq
  have := c.isLt; have := b.isLt; have := a.isLt
  rw [fieldC, BitVec.extractLsb'_toNat, packHeader_toNat, Nat.shiftRight_eq_div_pow]
  omega

theorem fieldB_packHeader (op : Opcode) (c b a : Byte) : fieldB (packHeader op c b a) = b := by
  apply BitVec.eq_of_toNat_eq
  have := b.isLt; have := a.isLt
  rw [fieldB, BitVec.extractLsb'_toNat, packHeader_toNat, Nat.shiftRight_eq_div_pow]
  omega

theorem fieldA_packHeader (op : Opcode) (c b a : Byte) : fieldA (packHeader op c b a) = a := by
  apply BitVec.eq_of_toNat_eq
  have := a.isLt
  rw [fieldA, BitVec.extractLsb'_toNat, packHeader_toNat, Nat.shiftRight_eq_div_pow]
  omega

theorem ofBits_toBits (op : Opcode) : Opcode.ofBits op.toBits = some op := by
  cases op <;> rfl

/-- A packed header whose reserved bits are 0 passes the checks. -/
theorem checkHeader_packHeader {op : Opcode} {c b a : Byte} (h : packHeader op c b a &&& op.rsvMask = 0#32) :
    checkHeader (packHeader op c b a) = .ok op := by
  unfold checkHeader
  rw [opField_packHeader, ofBits_toBits]
  simp [h]

/-- `RSV` is 0 in a packed header. -/
theorem packHeader_rsv (op : Opcode) (c b a : Byte) : packHeader op c b a &&& 0x0F000000#32 = 0#32 := by
  unfold packHeader
  apply BitVec.eq_of_getLsbD_eq
  intro i hi
  simp only [BitVec.getLsbD_and, BitVec.getLsbD_append]
  interval_cases i <;> simp

/-- `RSV` and `C` are 0 in a packed header without a third operand. -/
theorem packHeader_rsv_c (op : Opcode) (b a : Byte) : packHeader op 0 b a &&& 0x0FFF0000#32 = 0#32 := by
  unfold packHeader
  apply BitVec.eq_of_getLsbD_eq
  intro i hi
  simp only [BitVec.getLsbD_and, BitVec.getLsbD_append]
  interval_cases i <;> simp

/-- The bytes of a packed word are the bytes packed (R108). -/
theorem wordBytes_pack (b0 b1 b2 b3 : Byte) : wordBytes (b3 ++ b2 ++ b1 ++ b0) = [b0, b1, b2, b3] := by
  have hn : (b3 ++ b2 ++ b1 ++ b0 : BitVec (8 + 8 + 8 + 8)).toNat =
      b3.toNat * 16777216 + b2.toNat * 65536 + b1.toNat * 256 + b0.toNat := by
    rw [append_toNat, append_toNat, append_toNat]
    omega
  have := b0.isLt; have := b1.isLt; have := b2.isLt; have := b3.isLt
  unfold wordBytes
  simp only [List.cons.injEq, and_true]
  refine ⟨?_, ?_, ?_, ?_⟩ <;>
  · apply BitVec.eq_of_toNat_eq
    rw [BitVec.extractLsb'_toNat, hn, Nat.shiftRight_eq_div_pow]
    omega

end Sys2Proof
end

