-- ==== Sys2Proof/Laws/State.lean ====
section
/-! SUPPORT. One lemma per field per primitive update of State, true by rfl, so that no proof unfolds a record update. -/

namespace Sys2Proof.Machine

/-! ### markDirty -/

@[simp] theorem markDirty_params (p : Nat) (s : State) : (markDirty p s).params = s.params := rfl
@[simp] theorem markDirty_fb (p : Nat) (s : State) : (markDirty p s).fb = s.fb := rfl
@[simp] theorem markDirty_dirty (p : Nat) (s : State) : (markDirty p s).dirty = s.dirty ||| (1#8 <<< p) := rfl
@[simp] theorem markDirty_cur (p : Nat) (s : State) : (markDirty p s).cur = s.cur := rfl
@[simp] theorem markDirty_prev (p : Nat) (s : State) : (markDirty p s).prev = s.prev := rfl
@[simp] theorem markDirty_parse (p : Nat) (s : State) : (markDirty p s).parse = s.parse := rfl
@[simp] theorem markDirty_fault (p : Nat) (s : State) : (markDirty p s).fault = s.fault := rfl
@[simp] theorem markDirty_faultCause (p : Nat) (s : State) : (markDirty p s).faultCause = s.faultCause := rfl
@[simp] theorem markDirty_faultInfo (p : Nat) (s : State) : (markDirty p s).faultInfo = s.faultInfo := rfl
@[simp] theorem markDirty_busLog (p : Nat) (s : State) : (markDirty p s).busLog = s.busLog := rfl
@[simp] theorem markDirty_hostQueue (p : Nat) (s : State) : (markDirty p s).hostQueue = s.hostQueue := rfl
@[simp] theorem markDirty_readLog (p : Nat) (s : State) : (markDirty p s).readLog = s.readLog := rfl
@[simp] theorem markDirty_epoch (p : Nat) (s : State) : (markDirty p s).epoch = s.epoch := rfl

/-! ### fbWrite -/

@[simp] theorem fbWrite_params (p c : Nat) (v : Byte) (s : State) : (fbWrite p c v s).params = s.params := rfl
@[simp] theorem fbWrite_fb (p c : Nat) (v : Byte) (s : State) : (fbWrite p c v s).fb = memSet s.fb (cellIndex p c) v := rfl
@[simp] theorem fbWrite_dirty (p c : Nat) (v : Byte) (s : State) : (fbWrite p c v s).dirty = s.dirty := rfl
@[simp] theorem fbWrite_cur (p c : Nat) (v : Byte) (s : State) : (fbWrite p c v s).cur = s.cur := rfl
@[simp] theorem fbWrite_prev (p c : Nat) (v : Byte) (s : State) : (fbWrite p c v s).prev = s.prev := rfl
@[simp] theorem fbWrite_parse (p c : Nat) (v : Byte) (s : State) : (fbWrite p c v s).parse = s.parse := rfl
@[simp] theorem fbWrite_fault (p c : Nat) (v : Byte) (s : State) : (fbWrite p c v s).fault = s.fault := rfl
@[simp] theorem fbWrite_faultCause (p c : Nat) (v : Byte) (s : State) : (fbWrite p c v s).faultCause = s.faultCause := rfl
@[simp] theorem fbWrite_faultInfo (p c : Nat) (v : Byte) (s : State) : (fbWrite p c v s).faultInfo = s.faultInfo := rfl
@[simp] theorem fbWrite_busLog (p c : Nat) (v : Byte) (s : State) : (fbWrite p c v s).busLog = s.busLog := rfl
@[simp] theorem fbWrite_hostQueue (p c : Nat) (v : Byte) (s : State) : (fbWrite p c v s).hostQueue = s.hostQueue := rfl
@[simp] theorem fbWrite_readLog (p c : Nat) (v : Byte) (s : State) : (fbWrite p c v s).readLog = s.readLog := rfl
@[simp] theorem fbWrite_epoch (p c : Nat) (v : Byte) (s : State) : (fbWrite p c v s).epoch = s.epoch := rfl

/-! ### zeroPage -/

@[simp] theorem zeroPage_params (p : Nat) (s : State) : (zeroPage p s).params = s.params := rfl
@[simp] theorem zeroPage_fb (p : Nat) (s : State) : (zeroPage p s).fb = memZeroPage s.fb p := rfl
@[simp] theorem zeroPage_dirty (p : Nat) (s : State) : (zeroPage p s).dirty = s.dirty := rfl
@[simp] theorem zeroPage_cur (p : Nat) (s : State) : (zeroPage p s).cur = s.cur := rfl
@[simp] theorem zeroPage_prev (p : Nat) (s : State) : (zeroPage p s).prev = s.prev := rfl
@[simp] theorem zeroPage_parse (p : Nat) (s : State) : (zeroPage p s).parse = s.parse := rfl
@[simp] theorem zeroPage_fault (p : Nat) (s : State) : (zeroPage p s).fault = s.fault := rfl
@[simp] theorem zeroPage_faultCause (p : Nat) (s : State) : (zeroPage p s).faultCause = s.faultCause := rfl
@[simp] theorem zeroPage_faultInfo (p : Nat) (s : State) : (zeroPage p s).faultInfo = s.faultInfo := rfl
@[simp] theorem zeroPage_busLog (p : Nat) (s : State) : (zeroPage p s).busLog = s.busLog := rfl
@[simp] theorem zeroPage_hostQueue (p : Nat) (s : State) : (zeroPage p s).hostQueue = s.hostQueue := rfl
@[simp] theorem zeroPage_readLog (p : Nat) (s : State) : (zeroPage p s).readLog = s.readLog := rfl
@[simp] theorem zeroPage_epoch (p : Nat) (s : State) : (zeroPage p s).epoch = s.epoch := rfl

/-! ### raise -/

@[simp] theorem raise_params (cause : Cause) (h : Word) (s : State) : (raise cause h s).params = s.params := rfl
@[simp] theorem raise_fb (cause : Cause) (h : Word) (s : State) : (raise cause h s).fb = s.fb := rfl
@[simp] theorem raise_dirty (cause : Cause) (h : Word) (s : State) : (raise cause h s).dirty = s.dirty := rfl
@[simp] theorem raise_cur (cause : Cause) (h : Word) (s : State) : (raise cause h s).cur = s.cur := rfl
@[simp] theorem raise_prev (cause : Cause) (h : Word) (s : State) : (raise cause h s).prev = s.prev := rfl
@[simp] theorem raise_parse (cause : Cause) (h : Word) (s : State) : (raise cause h s).parse = .idle := rfl
@[simp] theorem raise_fault (cause : Cause) (h : Word) (s : State) : (raise cause h s).fault = true := rfl
@[simp] theorem raise_faultCause (cause : Cause) (h : Word) (s : State) : (raise cause h s).faultCause = cause.code := rfl
@[simp] theorem raise_faultInfo (cause : Cause) (h : Word) (s : State) : (raise cause h s).faultInfo = h := rfl
@[simp] theorem raise_busLog (cause : Cause) (h : Word) (s : State) : (raise cause h s).busLog = s.busLog := rfl
@[simp] theorem raise_hostQueue (cause : Cause) (h : Word) (s : State) : (raise cause h s).hostQueue = s.hostQueue := rfl
@[simp] theorem raise_readLog (cause : Cause) (h : Word) (s : State) : (raise cause h s).readLog = s.readLog := rfl
@[simp] theorem raise_epoch (cause : Cause) (h : Word) (s : State) : (raise cause h s).epoch = s.epoch := rfl

/-! ### updateCursor -/

@[simp] theorem updateCursor_params (v : Point) (s : State) : (updateCursor v s).params = s.params := rfl
@[simp] theorem updateCursor_fb (v : Point) (s : State) : (updateCursor v s).fb = s.fb := rfl
@[simp] theorem updateCursor_dirty (v : Point) (s : State) : (updateCursor v s).dirty = s.dirty := rfl
@[simp] theorem updateCursor_cur (v : Point) (s : State) : (updateCursor v s).cur = some v := rfl
@[simp] theorem updateCursor_prev (v : Point) (s : State) : (updateCursor v s).prev = s.cur := rfl
@[simp] theorem updateCursor_parse (v : Point) (s : State) : (updateCursor v s).parse = s.parse := rfl
@[simp] theorem updateCursor_fault (v : Point) (s : State) : (updateCursor v s).fault = s.fault := rfl
@[simp] theorem updateCursor_faultCause (v : Point) (s : State) : (updateCursor v s).faultCause = s.faultCause := rfl
@[simp] theorem updateCursor_faultInfo (v : Point) (s : State) : (updateCursor v s).faultInfo = s.faultInfo := rfl
@[simp] theorem updateCursor_busLog (v : Point) (s : State) : (updateCursor v s).busLog = s.busLog := rfl
@[simp] theorem updateCursor_hostQueue (v : Point) (s : State) : (updateCursor v s).hostQueue = s.hostQueue := rfl
@[simp] theorem updateCursor_readLog (v : Point) (s : State) : (updateCursor v s).readLog = s.readLog := rfl
@[simp] theorem updateCursor_epoch (v : Point) (s : State) : (updateCursor v s).epoch = s.epoch := rfl

/-! ### busWrite -/

@[simp] theorem busWrite_params (bus : Nat → BusResult) (w : BusWrite) (s : State) : (busWrite bus w s).params = s.params := rfl
@[simp] theorem busWrite_fb (bus : Nat → BusResult) (w : BusWrite) (s : State) : (busWrite bus w s).fb = s.fb := rfl
@[simp] theorem busWrite_dirty (bus : Nat → BusResult) (w : BusWrite) (s : State) : (busWrite bus w s).dirty = s.dirty := rfl
@[simp] theorem busWrite_cur (bus : Nat → BusResult) (w : BusWrite) (s : State) : (busWrite bus w s).cur = s.cur := rfl
@[simp] theorem busWrite_prev (bus : Nat → BusResult) (w : BusWrite) (s : State) : (busWrite bus w s).prev = s.prev := rfl
@[simp] theorem busWrite_parse (bus : Nat → BusResult) (w : BusWrite) (s : State) : (busWrite bus w s).parse = s.parse := rfl
@[simp] theorem busWrite_fault (bus : Nat → BusResult) (w : BusWrite) (s : State) : (busWrite bus w s).fault = s.fault := rfl
@[simp] theorem busWrite_faultCause (bus : Nat → BusResult) (w : BusWrite) (s : State) : (busWrite bus w s).faultCause = s.faultCause := rfl
@[simp] theorem busWrite_faultInfo (bus : Nat → BusResult) (w : BusWrite) (s : State) : (busWrite bus w s).faultInfo = s.faultInfo := rfl
@[simp] theorem busWrite_busLog (bus : Nat → BusResult) (w : BusWrite) (s : State) : (busWrite bus w s).busLog = s.busLog ++ [w] := rfl
@[simp] theorem busWrite_hostQueue (bus : Nat → BusResult) (w : BusWrite) (s : State) : (busWrite bus w s).hostQueue = s.hostQueue := rfl
@[simp] theorem busWrite_readLog (bus : Nat → BusResult) (w : BusWrite) (s : State) : (busWrite bus w s).readLog = s.readLog := rfl
@[simp] theorem busWrite_epoch (bus : Nat → BusResult) (w : BusWrite) (s : State) : (busWrite bus w s).epoch = s.epoch := rfl

/-! ### answerRead -/

@[simp] theorem answerRead_params (a : BitVec 12) (s : State) : (answerRead a s).params = s.params := rfl
@[simp] theorem answerRead_fb (a : BitVec 12) (s : State) : (answerRead a s).fb = s.fb := rfl
@[simp] theorem answerRead_dirty (a : BitVec 12) (s : State) : (answerRead a s).dirty = s.dirty := rfl
@[simp] theorem answerRead_cur (a : BitVec 12) (s : State) : (answerRead a s).cur = s.cur := rfl
@[simp] theorem answerRead_prev (a : BitVec 12) (s : State) : (answerRead a s).prev = s.prev := rfl
@[simp] theorem answerRead_parse (a : BitVec 12) (s : State) : (answerRead a s).parse = s.parse := rfl
@[simp] theorem answerRead_fault (a : BitVec 12) (s : State) : (answerRead a s).fault = s.fault := rfl
@[simp] theorem answerRead_faultCause (a : BitVec 12) (s : State) : (answerRead a s).faultCause = s.faultCause := rfl
@[simp] theorem answerRead_faultInfo (a : BitVec 12) (s : State) : (answerRead a s).faultInfo = s.faultInfo := rfl
@[simp] theorem answerRead_busLog (a : BitVec 12) (s : State) : (answerRead a s).busLog = s.busLog := rfl
@[simp] theorem answerRead_hostQueue (a : BitVec 12) (s : State) : (answerRead a s).hostQueue = s.hostQueue := rfl
@[simp] theorem answerRead_readLog (a : BitVec 12) (s : State) : (answerRead a s).readLog = s.readLog ++ [(a, regRead s a)] := rfl
@[simp] theorem answerRead_epoch (a : BitVec 12) (s : State) : (answerRead a s).epoch = s.epoch := rfl

/-! ### applyReset -/

@[simp] theorem applyReset_params (s : State) : (applyReset s).params = s.params := rfl
@[simp] theorem applyReset_fb (s : State) : (applyReset s).fb = [] := rfl
@[simp] theorem applyReset_dirty (s : State) : (applyReset s).dirty = 0x00#8 := rfl
@[simp] theorem applyReset_cur (s : State) : (applyReset s).cur = none := rfl
@[simp] theorem applyReset_prev (s : State) : (applyReset s).prev = none := rfl
@[simp] theorem applyReset_parse (s : State) : (applyReset s).parse = .idle := rfl
@[simp] theorem applyReset_fault (s : State) : (applyReset s).fault = false := rfl
@[simp] theorem applyReset_faultCause (s : State) : (applyReset s).faultCause = 0#4 := rfl
@[simp] theorem applyReset_faultInfo (s : State) : (applyReset s).faultInfo = 0x00000000#32 := rfl
@[simp] theorem applyReset_busLog (s : State) : (applyReset s).busLog = [] := rfl
@[simp] theorem applyReset_hostQueue (s : State) : (applyReset s).hostQueue = s.hostQueue := rfl
@[simp] theorem applyReset_readLog (s : State) : (applyReset s).readLog = s.readLog := rfl
@[simp] theorem applyReset_epoch (s : State) : (applyReset s).epoch = s.epoch + 1 := rfl

end Sys2Proof.Machine
end

