-- ==== Sys2Proof/Laws/Memory.lean ====
section
/-! SUPPORT. The buffer's memory: what a read gives after a write, and that every memory operation keeps the canonical form. -/

namespace Sys2Proof.Machine

/-! ### Reads after writes -/

theorem memGet_memSet (m : List Host.Cell) (a : Nat) (v : Byte) (b : Nat) :
    memGet (memSet m a v) b = if a = b then some v else memGet m b := by
  induction m with
  | nil => simp [memSet, memGet]
  | cons e rest ih =>
    obtain ⟨k, u⟩ := e
    unfold memSet
    split
    · simp [memGet]
    · split
      · subst k; by_cases h : a = b <;> simp [memGet, h]
      · by_cases h : k = b
        · have : a ≠ b := by omega
          simp [memGet, h, this]
        · simp [memGet, h, ih]

theorem memGet_append (m n : List Host.Cell) (a : Nat) :
    memGet (m ++ n) a = (memGet m a).or (memGet n a) := by
  induction m with
  | nil => simp [memGet]
  | cons e rest ih =>
    obtain ⟨k, u⟩ := e
    by_cases h : k = a <;> simp [memGet, h, ih]

theorem memGet_filter (f : Nat → Bool) (m : List Host.Cell) (a : Nat) :
    memGet (m.filter fun e => f e.1) a = if f a then memGet m a else none := by
  induction m with
  | nil => simp [memGet]
  | cons e rest ih =>
    obtain ⟨k, u⟩ := e
    by_cases hk : f k
    · by_cases h : k = a
      · subst h; simp [memGet, hk]
      · simp [memGet, hk, h, ih]
    · by_cases h : k = a
      · subst h; simp [hk, ih]
      · simp [memGet, hk, h, ih]

theorem memGet_map_zero (f : Nat → Nat) (l : List Nat) (a : Nat) :
    memGet (l.map fun c => (f c, 0x00#8)) a = if ∃ c ∈ l, f c = a then some 0x00#8 else none := by
  induction l with
  | nil => simp [memGet]
  | cons c rest ih => by_cases h : f c = a <;> simp [memGet, h, ih]

theorem memGet_memZeroPage (m : List Host.Cell) (p a : Nat) :
    memGet (memZeroPage m p) a = if a / 128 = p then some 0x00#8 else memGet m a := by
  unfold memZeroPage
  rw [memGet_append, memGet_append, memGet_filter (fun k => decide (k < 128 * p)),
    memGet_filter (fun k => decide (128 * (p + 1) ≤ k)), memGet_map_zero]
  by_cases h : a / 128 = p
  · have h1 : ¬ a < 128 * p := by omega
    have h2 : ∃ c ∈ List.range 128, 128 * p + c = a := ⟨a - 128 * p, by simp; omega, by omega⟩
    rw [if_pos h2, if_pos h]
    simp [h1]
  · have h2 : ¬ ∃ c ∈ List.range 128, 128 * p + c = a := by
      rintro ⟨c, hc, rfl⟩
      rw [List.mem_range] at hc
      omega
    rw [if_neg h2, if_neg h]
    by_cases h3 : a < 128 * p
    · have : ¬ 128 * (p + 1) ≤ a := by omega
      simp [h3, this]
    · have : 128 * (p + 1) ≤ a := by omega
      simp [h3, this]

/-- Reading a cell after a write to a cell. -/
theorem fbRead_fbWrite (p c : Nat) (v : Byte) (s : State) (p' c' : Nat) :
    fbRead (fbWrite p c v s) p' c' = if cellIndex p c = cellIndex p' c' then v else fbRead s p' c' := by
  unfold fbRead
  rw [fbWrite_fb, memGet_memSet]
  by_cases h : cellIndex p c = cellIndex p' c' <;> simp [h]

/-- Reading a cell after a page has been zeroed. -/
theorem fbRead_zeroPage (p : Nat) (s : State) (p' c' : Nat) (hc : c' < 128) :
    fbRead (zeroPage p s) p' c' = if p' = p then 0x00#8 else fbRead s p' c' := by
  unfold fbRead
  rw [zeroPage_fb, memGet_memZeroPage]
  have : cellIndex p' c' / 128 = p' := by unfold cellIndex; omega
  rw [this]
  by_cases h : p' = p <;> simp [h]

/-- A read depends on the cells and the free draws only. -/
theorem fbRead_congr {s t : State} (hf : t.fb = s.fb) (he : t.epoch = s.epoch) (p c : Nat) :
    fbRead t p c = fbRead s p c := by
  unfold fbRead
  rw [hf, he]

theorem cellIndex_inj {p c p' c' : Nat} (hc : c < 128) (hc' : c' < 128) :
    cellIndex p c = cellIndex p' c' ↔ p = p' ∧ c = c' := by
  unfold cellIndex
  omega

/-- Reading a cell of the buffer after a write to a cell of the buffer, by page and column. -/
theorem fbRead_fbWrite_cell {p c : Nat} (v : Byte) (s : State) {p' c' : Nat} (hc : c < 128) (hc' : c' < 128) :
    fbRead (fbWrite p c v s) p' c' = if p' = p ∧ c' = c then v else fbRead s p' c' := by
  rw [fbRead_fbWrite]
  by_cases h : p' = p ∧ c' = c
  · obtain ⟨rfl, rfl⟩ := h
    simp
  · rw [if_neg h, if_neg]
    rw [cellIndex_inj hc hc']
    exact fun e => h ⟨e.1.symm, e.2.symm⟩

/-- Marking a page dirty changes no cell. -/
theorem fbRead_markDirty (q : Nat) (s : State) (p c : Nat) : fbRead (markDirty q s) p c = fbRead s p c :=
  fbRead_congr rfl rfl p c

/-! ### The canonical form -/

theorem mem_memSet {m : List Host.Cell} {a : Nat} {v : Byte} {e : Host.Cell} (h : e ∈ memSet m a v) :
    e = (a, v) ∨ e ∈ m := by
  induction m with
  | nil => simpa [memSet] using h
  | cons f rest ih =>
    obtain ⟨k, u⟩ := f
    unfold memSet at h
    split at h
    · simpa using h
    · split at h
      · rcases List.mem_cons.1 h with h | h
        · exact .inl h
        · exact .inr (List.mem_cons_of_mem _ h)
      · rcases List.mem_cons.1 h with h | h
        · exact .inr (h ▸ List.mem_cons_self)
        · rcases ih h with h | h
          · exact .inl h
          · exact .inr (List.mem_cons_of_mem _ h)

theorem memSet_pairwise {m : List Host.Cell} (a : Nat) (v : Byte)
    (h : m.Pairwise fun e f => e.1 < f.1) : (memSet m a v).Pairwise fun e f => e.1 < f.1 := by
  induction m with
  | nil => simp [memSet]
  | cons f rest ih =>
    obtain ⟨k, u⟩ := f
    obtain ⟨hk, hr⟩ := List.pairwise_cons.1 h
    unfold memSet
    split
    · refine List.pairwise_cons.2 ⟨fun e he => ?_, h⟩
      rcases List.mem_cons.1 he with rfl | he
      · assumption
      · exact Nat.lt_trans ‹_› (hk e he)
    · split
      · subst k
        exact List.pairwise_cons.2 ⟨hk, hr⟩
      · refine List.pairwise_cons.2 ⟨fun e he => ?_, ih hr⟩
        rcases mem_memSet he with rfl | he
        · show k < a
          omega
        · exact hk e he

/-- A write inside the buffer keeps the canonical form. -/
theorem memSet_wf {m : List Host.Cell} {a : Nat} (v : Byte) (h : Memory.wf m) (ha : a < 1024) :
    Memory.wf (memSet m a v) := by
  refine ⟨memSet_pairwise a v h.1, fun e he => ?_⟩
  rcases mem_memSet he with rfl | he
  · exact ha
  · exact h.2 e he

/-- Zeroing a page of the buffer keeps the canonical form. -/
theorem memZeroPage_wf {m : List Host.Cell} {p : Nat} (h : Memory.wf m) (hp : p < 8) :
    Memory.wf (memZeroPage m p) := by
  unfold memZeroPage
  refine ⟨?_, fun e he => ?_⟩
  · rw [List.pairwise_append, List.pairwise_append]
    refine ⟨⟨h.1.filter _, ?_, ?_⟩, h.1.filter _, ?_⟩
    · rw [List.pairwise_map]
      exact List.pairwise_lt_range.imp fun hab => by simpa using hab
    · intro e he f hf
      simp only [List.mem_filter, decide_eq_true_eq] at he
      obtain ⟨c, -, rfl⟩ := List.mem_map.1 hf
      show e.1 < 128 * p + c
      omega
    · intro e he f hf
      simp only [List.mem_filter, decide_eq_true_eq] at hf
      rcases List.mem_append.1 he with he | he
      · simp only [List.mem_filter, decide_eq_true_eq] at he
        omega
      · obtain ⟨c, hc, rfl⟩ := List.mem_map.1 he
        have := List.mem_range.1 hc
        show 128 * p + c < f.1
        omega
  · rcases List.mem_append.1 he with he | he
    · rcases List.mem_append.1 he with he | he
      · exact h.2 e (List.mem_of_mem_filter he)
      · obtain ⟨c, hc, rfl⟩ := List.mem_map.1 he
        have := List.mem_range.1 hc
        show 128 * p + c < 1024
        omega
    · exact h.2 e (List.mem_of_mem_filter he)

theorem fbWrite_wf {p c : Nat} (v : Byte) {s : State} (h : Memory.wf s.fb) (hp : p < 8) (hc : c < 128) :
    Memory.wf (fbWrite p c v s).fb :=
  memSet_wf v h (by unfold cellIndex; omega)

theorem zeroPage_wf {p : Nat} {s : State} (h : Memory.wf s.fb) (hp : p < 8) : Memory.wf (zeroPage p s).fb :=
  memZeroPage_wf h hp

/-- Reset's memory is in canonical form. -/
theorem reset_memory_wf : Memory.wf State.reset.fb := by decide

end Sys2Proof.Machine
end

