-- ==== Sys2Proof/Laws/Ops.lean ====
section
/-! SUPPORT. For each shared operation, what it does: the cells it leaves, the frame it keeps, and that it keeps the canonical
form of the buffer's memory. -/

namespace Sys2Proof.Machine

/-! ### Frames compose -/

theorem OnlyDrawn.refl (s : State) : OnlyDrawn s s := by
  simp [OnlyDrawn, SameHost, SameControl, SameCursors]

theorem OnlyDrawn.trans {s t u : State} (h : OnlyDrawn s t) (k : OnlyDrawn t u) : OnlyDrawn s u := by
  obtain ⟨⟨h1, h2, h3, h4⟩, ⟨h5, h6, h7, h8⟩, ⟨h9, h10⟩, h11⟩ := h
  obtain ⟨⟨k1, k2, k3, k4⟩, ⟨k5, k6, k7, k8⟩, ⟨k9, k10⟩, k11⟩ := k
  exact ⟨⟨k1.trans h1, k2.trans h2, k3.trans h3, k4.trans h4⟩,
    ⟨k5.trans h5, k6.trans h6, k7.trans h7, k8.trans h8⟩, ⟨k9.trans h9, k10.trans h10⟩, k11.trans h11⟩

theorem OnlyDrawn.foldl {α : Type} {f : State → α → State} (hf : ∀ s a, OnlyDrawn s (f s a)) (l : List α) (s : State) :
    OnlyDrawn s (l.foldl f s) := by
  induction l generalizing s with
  | nil => exact OnlyDrawn.refl s
  | cons a rest ih => exact (hf s a).trans (ih _)

/-! ### The dirty mask -/

/-- Marking page `p` sets bit `p` and leaves the others. -/
theorem isDirty_markDirty (p : Nat) (s : State) (q : Nat) (hp : p < 8) :
    isDirty (markDirty p s).dirty q = (decide (q = p) || isDirty s.dirty q) := by
  unfold isDirty
  rw [markDirty_dirty, BitVec.getLsbD_or, BitVec.getLsbD_shiftLeft]
  by_cases h : q = p
  · subst h; simp [hp]
  · have : ¬ q - p = 0 ∨ q < p := by omega
    rcases this with h1 | h1 <;> simp [h, h1]

/-! ### `Plot` (R140) -/

theorem plot_onlyDrawn (X Y : Nat) (s : State) : OnlyDrawn s (plot X Y s) := by
  simp [OnlyDrawn, SameHost, SameControl, SameCursors, plot]

/-- The cells after `Plot`. -/
theorem fbRead_plot (X Y : Nat) (s : State) (p c : Nat) (hX : X < 128) (hc : c < 128) :
    fbRead (plot X Y s) p c =
      if p = Y / 8 ∧ c = X then fbRead s p c ||| (1#8 <<< (Y % 8)) else fbRead s p c := by
  unfold plot
  rw [fbRead_markDirty, fbRead_fbWrite_cell _ _ hX hc]
  by_cases h : p = Y / 8 ∧ c = X
  · obtain ⟨rfl, rfl⟩ := h
    rfl
  · rw [if_neg h, if_neg h]

/-- The dirty mask after `Plot`. -/
theorem plot_dirty (X Y : Nat) (s : State) : (plot X Y s).dirty = s.dirty ||| (1#8 <<< (Y / 8)) := rfl

theorem plot_wf {X Y : Nat} {s : State} (h : Memory.wf s.fb) (hX : X < 128) (hY : Y < 64) :
    Memory.wf (plot X Y s).fb :=
  fbWrite_wf _ h (by omega) hX

/-! ### `Pixels` (R142) -/

theorem pixels_onlyDrawn (x y : Nat) (v : Byte) (s : State) : OnlyDrawn s (pixels x y v s) := by
  unfold pixels
  split <;> simp [OnlyDrawn, SameHost, SameControl, SameCursors]

/-- The cells after `Pixels`. -/
theorem fbRead_pixels (x y : Nat) (v : Byte) (s : State) (p c : Nat) (hx : x < 128) (hc : c < 128) :
    fbRead (pixels x y v s) p c =
      if c = x ∧ p = y / 8 then
        if y % 8 = 0 then v else fbRead s p c ||| (v <<< (y % 8))
      else if c = x ∧ p = y / 8 + 1 ∧ y % 8 ≠ 0 then fbRead s p c ||| (v >>> (8 - y % 8))
      else fbRead s p c := by
  unfold pixels
  split
  · rename_i h8
    rw [fbRead_markDirty, fbRead_fbWrite_cell _ _ hx hc]
    by_cases h : c = x ∧ p = y / 8
    · rw [if_pos ⟨h.2, h.1⟩, if_pos h]
    · rw [if_neg (fun e => h ⟨e.2, e.1⟩), if_neg h, if_neg (fun e => e.2.2 h8)]
  · rename_i h8
    dsimp only
    rw [fbRead_markDirty, fbRead_markDirty, fbRead_fbWrite_cell _ _ hx hc, fbRead_fbWrite_cell _ _ hx hx,
      fbRead_fbWrite_cell _ _ hx hc, if_neg (show ¬ (y / 8 + 1 = y / 8 ∧ x = x) by omega)]
    by_cases h : c = x
    · subst h
      by_cases h1 : p = y / 8
      · subst h1; simp
      · by_cases h2 : p = y / 8 + 1
        · subst h2; simp [h8]
        · simp [h1, h2]
    · simp [h]

/-- The dirty mask after `Pixels`. -/
theorem pixels_dirty (x y : Nat) (v : Byte) (s : State) :
    (pixels x y v s).dirty =
      if y % 8 = 0 then s.dirty ||| (1#8 <<< (y / 8))
      else s.dirty ||| (1#8 <<< (y / 8)) ||| (1#8 <<< (y / 8 + 1)) := by
  unfold pixels
  split <;> rfl

/-- What a slice in range addresses. -/
theorem sliceInRange_iff (sl : Slice) :
    sliceInRange sl = true ↔ sl.x < 128 ∧ if sl.y % 8 = 0 then sl.y / 8 < 8 else sl.y / 8 + 1 < 8 := by
  unfold sliceInRange pixCells
  split <;> simp [cellInRange] <;> omega

theorem pixels_wf {x y : Nat} (v : Byte) {s : State} (h : Memory.wf s.fb)
    (hr : sliceInRange { x := x, y := y, v := v } = true) : Memory.wf (pixels x y v s).fb := by
  obtain ⟨hx, hy⟩ := (sliceInRange_iff _).1 hr
  dsimp only at hx hy
  unfold pixels
  split
  · rename_i h8
    rw [if_pos h8] at hy
    exact fbWrite_wf _ h hy hx
  · rename_i h8
    rw [if_neg h8] at hy
    exact fbWrite_wf _ (fbWrite_wf _ h (by omega) hx) hy hx

/-! ### Lists of slices (R15, R251) -/

/-- A drawing of slices either writes all of them, all in range, or enters the fault state. -/
theorem drawSlices_cases (h : Word) (slices : List Slice) (s : State) :
    (slices.all sliceInRange = true ∧ drawSlices h slices s = slices.foldl drawSlice s) ∨
      (slices.all sliceInRange = false ∧ drawSlices h slices s = raise .coordRange h s) := by
  unfold drawSlices
  cases slices.all sliceInRange <;> simp

theorem foldl_drawSlice_onlyDrawn (slices : List Slice) (s : State) : OnlyDrawn s (slices.foldl drawSlice s) :=
  OnlyDrawn.foldl (f := drawSlice) (fun s sl => pixels_onlyDrawn sl.x sl.y sl.v s) slices s

theorem foldl_drawSlice_wf {slices : List Slice} {s : State} (h : Memory.wf s.fb)
    (hr : slices.all sliceInRange = true) : Memory.wf (slices.foldl drawSlice s).fb := by
  induction slices generalizing s with
  | nil => exact h
  | cons sl rest ih =>
    rw [List.all_cons, Bool.and_eq_true] at hr
    exact ih (pixels_wf sl.v h hr.1) hr.2

theorem drawSlices_wf {h : Word} {slices : List Slice} {s : State} (hw : Memory.wf s.fb) :
    Memory.wf (drawSlices h slices s).fb := by
  rcases drawSlices_cases h slices s with ⟨hr, e⟩ | ⟨-, e⟩
  · rw [e]; exact foldl_drawSlice_wf hw hr
  · rw [e]; exact hw

/-- A drawing of text draws its slices, or enters the fault state with one of two causes (R259). -/
theorem drawText_cases (h : Word) (x y : Nat) (chars : List Byte) (s : State) :
    (chars.all (charInRange s.params) = true ∧
        drawText h x y chars s = drawSlices h (textSlices s.params x y chars) s) ∨
      (chars.all (charInRange s.params) = false ∧ drawText h x y chars s = raise .charRange h s) := by
  unfold drawText
  cases chars.all (charInRange s.params) <;> simp

/-! ### Lines (R204) -/

theorem plotPoint_onlyDrawn (s : State) (q : Int × Int) : OnlyDrawn s (plotPoint s q) :=
  plot_onlyDrawn _ _ s

/-! ### Clearing (R184, R186) -/

theorem zeroPage_onlyDrawn (p : Nat) (s : State) : OnlyDrawn s (zeroPage p s) := by
  simp [OnlyDrawn, SameHost, SameControl, SameCursors]

theorem clearPageIfDirty_onlyDrawn (s : State) (p : Nat) : OnlyDrawn s (clearPageIfDirty s p) := by
  unfold clearPageIfDirty
  split
  · exact zeroPage_onlyDrawn p s
  · exact OnlyDrawn.refl s

theorem clearPageIfDirty_wf {s : State} {p : Nat} (h : Memory.wf s.fb) (hp : p < 8) :
    Memory.wf (clearPageIfDirty s p).fb := by
  unfold clearPageIfDirty
  split
  · exact zeroPage_wf h hp
  · exact h

/-! ### The flush (R224) -/

/-- The writes of one page where it is dirty. -/
def pageWrites (s : State) (p : Nat) : List BusWrite :=
  if isDirty s.dirty p then [pageCmdWrite s.params p, pageDataWrite s p] else []

/-- A page's writes depend on the parameters, the mask, the cells and the free draws only. -/
theorem pageWrites_congr {s t : State} (hp : t.params = s.params) (hd : t.dirty = s.dirty) (hf : t.fb = s.fb)
    (he : t.epoch = s.epoch) (p : Nat) : pageWrites t p = pageWrites s p := by
  unfold pageWrites pageDataWrite
  have : fbRead t p = fbRead s p := funext fun c => fbRead_congr hf he p c
  rw [hp, hd, this]

/-- One page's flush adds its writes to the log and changes nothing else. -/
theorem flushPage_eq (bus : Nat → BusResult) (s : State) (p : Nat) :
    flushPage bus s p = { s with busLog := s.busLog ++ pageWrites s p } := by
  unfold flushPage pageWrites
  split
  · have : pageDataWrite (busWrite bus (pageCmdWrite s.params p) s) p = pageDataWrite s p := by
      unfold pageDataWrite
      have : fbRead (busWrite bus (pageCmdWrite s.params p) s) p = fbRead s p :=
        funext fun c => fbRead_congr rfl rfl p c
      rw [this]
    simp only [busWrite, afterBus] at this ⊢
    rw [this]
    simp
  · simp

theorem foldl_flushPage_eq (bus : Nat → BusResult) (l : List Nat) (s : State) :
    l.foldl (flushPage bus) s = { s with busLog := s.busLog ++ l.flatMap (pageWrites s) } := by
  induction l generalizing s with
  | nil => simp
  | cons p rest ih =>
    rw [List.foldl_cons, flushPage_eq, ih]
    have : pageWrites { s with busLog := s.busLog ++ pageWrites s p } = pageWrites s :=
      funext fun q => pageWrites_congr rfl rfl rfl rfl q
    simp [this, List.flatMap_cons]

/-- A flush adds the writes of the dirty pages to the log, in ascending page order, and clears the mask. -/
theorem renderWith_eq (bus : Nat → BusResult) (s : State) :
    renderWith bus s =
      { s with dirty := 0x00#8, busLog := s.busLog ++ (List.range 8).flatMap (pageWrites s) } := by
  unfold renderWith
  rw [foldl_flushPage_eq]

/-! ### Fault entry and reset -/

/-- Fault entry writes the three fault registers and the parser, and nothing else (R254). -/
theorem raise_faultEntered (cause : Cause) (h : Word) (s : State) : FaultEntered cause h s (raise cause h s) := rfl

/-- Cause codes are 1 to 6 (R250). -/
theorem Cause.code_range (c : Cause) : 1 ≤ c.code.toNat ∧ c.code.toNat ≤ 6 := by
  cases c <;> decide

/-! ### Parameters -/

/-- The parameters at reset meet the constraints of R8. -/
theorem config_params_wf : Config.params.Wf := by
  have hx := Config.originX.isLt
  have hy := Config.originY.isLt
  have hg := Config.glyphLastAbove.isLt
  refine ⟨?_, ?_, ?_, ?_, ?_⟩
  · simp [Config.params]; omega
  · simp [Config.params]; omega
  · simp [Config.params]; omega
  · simp [Config.params]; omega
  · cases h : Config.colHiHasCode <;> simp [Config.params, h]

end Sys2Proof.Machine
end

