-- ==== Sys2Proof/Laws/Parser.lean ====
section
/-! SUPPORT. What the decoder and the parser can answer: one lemma for each that says when they answer a command. -/

namespace Sys2Proof

/-- When a payload decodes, its words are there and make the command. -/
theorem decodePayload_ok {op : Opcode} {h : Word} {aux : Option Byte} {need : Nat} {rest : List Word} {i : Instr}
    {left : List Word} (hd : decodePayload op h aux need rest = .ok (i, left)) :
    need ≤ rest.length ∧ instrOf op h aux (rest.take need) = some i ∧ left = rest.drop need := by
  unfold decodePayload at hd
  split at hd
  · cases hd
  · rename_i hl
    split at hd
    · cases hd
    · rename_i j hj
      simp only [Except.ok.injEq, Prod.mk.injEq] at hd
      obtain ⟨rfl, rfl⟩ := hd
      exact ⟨by omega, hj, rfl⟩

/-- A header that passes its checks has a legal opcode and no reserved bit set. -/
theorem checkHeader_ok {h : Word} {op : Opcode} (hc : checkHeader h = .ok op) :
    Opcode.ofBits (opField h) = some op ∧ h &&& op.rsvMask = 0#32 := by
  unfold checkHeader at hc
  split at hc
  · cases hc
  · split at hc
    · cases hc
      exact ⟨‹_›, ‹_›⟩
    · cases hc

theorem toBits_of_ofBits {b : BitVec 4} {op : Opcode} (h : Opcode.ofBits b = some op) : b = op.toBits := by
  revert h
  cases op <;> revert b <;> decide

/-- A header that passes its checks has its opcode in `OP`. -/
theorem opField_of_checkHeader {h : Word} {op : Opcode} (hc : checkHeader h = .ok op) : opField h = op.toBits :=
  toBits_of_ofBits (checkHeader_ok hc).1

/-- A height word that passes its checks holds a multiple of 8. -/
theorem checkHeight_ok {w : Word} {height : Byte} (hc : checkHeight w = .ok height) :
    w.extractLsb' 8 24 = 0#24 ∧ height = w.extractLsb' 0 8 ∧ height.toNat % 8 = 0 := by
  unfold checkHeight at hc
  split at hc
  · split at hc
    · cases hc
      exact ⟨‹_›, rfl, ‹_›⟩
    · cases hc
  · cases hc

/-- The height word the encoder writes passes its checks (R103, R126). -/
theorem checkHeight_setWidth {height : Byte} (h8 : height.toNat % 8 = 0) :
    checkHeight (height.setWidth 32) = .ok height := by
  have := height.isLt
  have h1 : (height.setWidth 32).extractLsb' 8 24 = 0#24 := by
    apply BitVec.eq_of_toNat_eq
    simp only [BitVec.extractLsb'_toNat, BitVec.toNat_setWidth, Nat.shiftRight_eq_div_pow, BitVec.toNat_ofNat]
    omega
  have h2 : (height.setWidth 32).extractLsb' 0 8 = height := by
    apply BitVec.eq_of_toNat_eq
    simp only [BitVec.extractLsb'_toNat, BitVec.toNat_setWidth, Nat.shiftRight_eq_div_pow]
    omega
  unfold checkHeight
  rw [h1, h2]
  simp [h8]

namespace Machine

/-- `Execute` with a checked header runs the command its words make (R121). -/
theorem execute_eq {h : Word} {op : Opcode} {aux : Option Byte} {ws : List Word} {i : Instr} {s : State}
    (hc : checkHeader h = .ok op) (hi : instrOf op h aux ws = some i) : execute h aux ws s = exec i s := by
  unfold execute
  rw [(checkHeader_ok hc).1]
  simp only [hi]

/-- A step takes the host's next action. -/
theorem step_cons {s : State} {e : HostEvent} {rest : List HostEvent} (hq : s.hostQueue = e :: rest) :
    step s = acceptEvent e { s with hostQueue := rest } := by
  unfold step
  rw [hq]

/-- Without an action of the host the FBD waits. -/
theorem step_nil {s : State} (hq : s.hostQueue = []) : step s = .next s := by
  unfold step
  rw [hq]

end Machine

end Sys2Proof
end

