-- ==== Sys2Proof/Laws/PerInstr.lean ====
section
/-! SUPPORT. The family `HeaderChecks`, one lemma per command: the header a command is encoded with passes the checks of a
header word and selects the command's own opcode. -/

namespace Sys2Proof.Laws.HeaderChecks

/-- The command's header passes the checks of R120 as the command's opcode. -/
def Statement (i : Instr) : Prop := checkHeader i.header = .ok i.opcode

theorem nop : Statement .nop := rfl

theorem drawPixel (x y : Byte) : Statement (.drawPixel x y) :=
  checkHeader_packHeader (packHeader_rsv_c _ _ _)

theorem drawPixels (x y v : Byte) : Statement (.drawPixels x y v) :=
  checkHeader_packHeader (packHeader_rsv _ _ _ _)

theorem drawChar (x y c : Byte) : Statement (.drawChar x y c) :=
  checkHeader_packHeader (packHeader_rsv _ _ _ _)

theorem drawString (x y : Byte) (text : List Byte) : Statement (.drawString x y text) :=
  checkHeader_packHeader (packHeader_rsv _ _ _ _)

theorem drawNumber (x y : Byte) (n : Word) (digits : Byte) : Statement (.drawNumber x y n digits) :=
  checkHeader_packHeader (packHeader_rsv _ _ _ _)

theorem showImage (x y width height : Byte) (data : List Byte) : Statement (.showImage x y width height data) :=
  checkHeader_packHeader (packHeader_rsv _ _ _ _)

theorem clearData : Statement .clearData := rfl

theorem clearScreen : Statement .clearScreen := rfl

theorem init : Statement .init := rfl

theorem render : Statement .render := rfl

theorem setCursor (x y : Byte) : Statement (.setCursor x y) :=
  checkHeader_packHeader (packHeader_rsv_c _ _ _)

theorem lineTo (x y : Byte) : Statement (.lineTo x y) :=
  checkHeader_packHeader (packHeader_rsv_c _ _ _)

end Sys2Proof.Laws.HeaderChecks
end

