-- ==== Sys2Proof/Tests/Slice0.lean ====
section
/-! SUPPORT. Tests. Expected words and values are those of spec/95_test_vectors.md (each test names its vector) or worked by
hand from the rule named. The last part shows, for each statement with hypotheses, values that meet them. -/

set_option maxRecDepth 20000

namespace Sys2Proof.Tests

open Sys2Proof.Machine

/-! ### Well-formedness: each check refuses an ill-formed term -/

/-- R106: a string's length is an 8-bit count. -/
theorem test_wf_string_too_long : (Instr.drawString 0 0 (List.replicate 256 0x41)).wf = false := by decide

theorem test_wf_string_longest : (Instr.drawString 0 0 (List.replicate 255 0x41)).wf = true := by decide

/-- R106: a height is legal only when a multiple of 8. -/
theorem test_wf_image_height : (Instr.showImage 0 0 1 12 [1]).wf = false := by decide

/-- R107: an image has `width * (height div 8)` bytes. -/
theorem test_wf_image_data_missing : (Instr.showImage 0 0 2 16 [1, 2, 3]).wf = false := by decide

theorem test_wf_image_data_whole : (Instr.showImage 0 0 2 16 [1, 2, 3, 4]).wf = true := by decide

/-! ### Decoding, from words written out by R101 and R104 -/

theorem test_decode_nop : decode [0x00000000#32] = .ok (.nop, []) := by decide
theorem test_decode_drawPixel : decode [0x10000D0A#32] = .ok (.drawPixel 10 13, []) := by decide
theorem test_decode_drawPixels : decode [0x20A51305#32] = .ok (.drawPixels 5 19 0xA5, []) := by decide
theorem test_decode_drawChar : decode [0x3041007A#32] = .ok (.drawChar 122 0 0x41, []) := by decide
theorem test_decode_drawString :
    decode [0x40050000#32, 0x4C4C4548#32, 0x0000004F#32] = .ok (.drawString 0 0 [0x48, 0x45, 0x4C, 0x4C, 0x4F], []) := by
  decide
theorem test_decode_drawNumber : decode [0x50040903#32, 0x000004D2#32] = .ok (.drawNumber 3 9 1234 4, []) := by decide
theorem test_decode_showImage :
    decode [0x6002000A#32, 0x00000010#32, 0x04030201#32] = .ok (.showImage 10 0 2 16 [1, 2, 3, 4], []) := by decide
theorem test_decode_clearData : decode [0x70000000#32] = .ok (.clearData, []) := by decide
theorem test_decode_clearScreen : decode [0x80000000#32] = .ok (.clearScreen, []) := by decide
theorem test_decode_init : decode [0x90000000#32] = .ok (.init, []) := by decide
theorem test_decode_render : decode [0xA0000000#32] = .ok (.render, []) := by decide
theorem test_decode_setCursor : decode [0xB0000403#32] = .ok (.setCursor 3 4, []) := by decide
theorem test_decode_lineTo : decode [0xC0000103#32] = .ok (.lineTo 3 1, []) := by decide

/-- E-15: pad bytes are ignored. -/
theorem test_decode_pad_ignored : decode [0x40010000#32, 0xFFFFFF41#32] = .ok (.drawString 0 0 [0x41], []) := by decide

/-- E-4: an illegal opcode wins over a reserved bit. -/
theorem test_decode_illegal_first : decode [0xF1000000#32] = .error (.badWord .illegalOpcode) := by decide

/-- E-6: `SET_CURSOR` with `C = 1`. -/
theorem test_decode_reserved : decode [0xB0010000#32] = .error (.badWord .reservedBits) := by decide

/-- E-14: a reserved bit of the height word wins over a bad height. -/
theorem test_decode_height_reserved_first :
    decode [0x60010000#32, 0x0000010C#32] = .error (.badWord .reservedBits) := by decide

/-- I-3: height 12. -/
theorem test_decode_height : decode [0x60010000#32, 0x0000000C#32] = .error (.badWord .imageHeight) := by decide

/-- E-9: a string header alone is no whole command. -/
theorem test_decode_truncated : decode [0x40040000#32] = .error .truncated := by decide

/-- The assembly check of 95_test_vectors.md section 2.1. -/
theorem test_encode_hello :
    encode (.drawString 0 0 [0x48, 0x45, 0x4C, 0x4C, 0x4F]) = [0x40050000#32, 0x4C4C4548#32, 0x0000004F#32] := by
  decide

/-- An instruction given as one number: operand words of zeros. -/
theorem test_decodeTableWord_string : decodeTableWord 32 0x40020800 = some (.drawString 0 8 [0, 0]) := by decide

/-! ### States for the tests -/

/-- The test glyph table T of 95_test_vectors.md section 0. -/
def testGlyph (n k : Nat) : Byte := BitVec.ofNat 8 (7 * (n + 0x20) + 13 * k)

def testParams (originX originY : Byte) : Params where
  originX := originX
  originY := originY
  glyphLast := 0x7E
  glyphRom := (List.range 95).map fun n =>
    #v[testGlyph n 0, testGlyph n 1, testGlyph n 2, testGlyph n 3, testGlyph n 4, testGlyph n 5]
  initSeq := Vector.replicate 18 0xAF
  colHiByte := 0x10

/-- The state after reset with test parameters and the cells at the given addresses 0. -/
def blank (originX originY : Byte) (addresses : List Nat) : State :=
  { State.reset with params := testParams originX originY, fb := addresses.map fun a => (a, 0) }

/-- The state an outcome leads to. -/
def after (o : Host.Outcome State Fault Refusal) : State :=
  match o with
  | .next t => t
  | .fault _ => State.reset
  | .refused _ => State.reset

/-- One step on one word. -/
def afterWord (w : Word) (s : State) : State := after (step { s with hostQueue := [.word w] })

/-! ### One step of each command -/

/-- E-1. -/
theorem test_nop : afterWord 0x00000000 (blank 0 0 [0]) = blank 0 0 [0] := by decide

/-- P-2: the Origin applies. -/
theorem test_drawPixel_origin :
    (fbRead (afterWord 0x10000D0A (blank 2 3 [268])) 2 12, (afterWord 0x10000D0A (blank 2 3 [268])).dirty) =
      (0x01#8, 0x04#8) := by decide

/-- P-4. -/
theorem test_drawPixel_fault :
    (regRead (afterWord 0x10000080 (blank 0 0 [])) 0x400, regRead (afterWord 0x10000080 (blank 0 0 [])) 0x404) =
      (0x00000031#32, 0x10000080#32) := by decide

/-- P-9: the unaligned split. -/
theorem test_drawPixels_split :
    (fbRead (afterWord 0x20A51305 (blank 0 0 [261, 389])) 2 5, fbRead (afterWord 0x20A51305 (blank 0 0 [261, 389])) 3 5,
      (afterWord 0x20A51305 (blank 0 0 [261, 389])).dirty) = (0x28#8, 0x05#8, 0x0C#8) := by decide

/-- P-13: page 8 is addressed whatever the data. -/
theorem test_drawPixels_page8 : regRead (afterWord 0x20013900 (blank 0 0 [])) 0x400 = 0x00000031#32 := by decide

/-- T-7: column 3. -/
theorem test_drawChar_unaligned :
    (fbRead (afterWord 0x30410400 (blank 0 0 [0, 1, 2, 3, 4, 5, 128, 129, 130, 131, 132, 133])) 0 3,
      fbRead (afterWord 0x30410400 (blank 0 0 [0, 1, 2, 3, 4, 5, 128, 129, 130, 131, 132, 133])) 1 3) =
      (0xE0#8, 0x0E#8) := by decide

/-- T-8: `CHAR_RANGE` before `COORD_RANGE`. -/
theorem test_drawChar_priority : regRead (afterWord 0x301000C8 (blank 0 0 [])) 0x400 = 0x00000041#32 := by decide

/-- T-10: `B` stands six columns after `A`. -/
theorem test_drawString_advance :
    (fbRead (after (exec (.drawString 0 8 [0x41, 0x42]) (blank 0 0 []))) 1 5,
      fbRead (after (exec (.drawString 0 8 [0x41, 0x42]) (blank 0 0 []))) 1 6) = (0x08#8, 0xCE#8) := by decide

/-- T-12: an empty string is a no-op at its header, wherever it is. -/
theorem test_drawString_empty : afterWord 0x4000C8C8 (blank 0 0 []) = blank 0 0 [] := by decide

/-- 1.6: "34" are the two least-significant digits of 1234. -/
theorem test_drawNumber_truncates :
    (fbRead (after (exec (.drawNumber 0 0 1234 2) (blank 0 0 []))) 0 0,
      fbRead (after (exec (.drawNumber 0 0 1234 2) (blank 0 0 []))) 0 6) = (0x65#8, 0x6C#8) := by decide

/-- T-21. -/
theorem test_drawNumber_too_wide :
    regRead (after (exec (.drawNumber 0 0 0 22) (blank 0 0 []))) 0x400 = 0x00000031#32 := by decide

/-- I-2: two strips OR into the middle page. -/
theorem test_showImage_unaligned :
    (fbRead (after (exec (.showImage 0 4 1 16 [0xFF, 0x81]) (blank 0 0 [0, 128, 256]))) 1 0,
      (after (exec (.showImage 0 4 1 16 [0xFF, 0x81]) (blank 0 0 [0, 128, 256]))).dirty) = (0x1F#8, 0x07#8) := by decide

/-- I-1: row-major strips. -/
theorem test_showImage_rows :
    (fbRead (after (exec (.showImage 10 0 2 16 [1, 2, 3, 4]) (blank 0 0 []))) 0 11,
      fbRead (after (exec (.showImage 10 0 2 16 [1, 2, 3, 4]) (blank 0 0 []))) 1 10) = (0x02#8, 0x03#8) := by decide

/-- C-1 and C-2 by R184: a dirty page is zeroed, a clean one is not. -/
theorem test_clearData_dirty_only :
    (fbRead (after (exec .clearData { blank 0 0 [] with fb := [(0, 5), (128, 7)], dirty := 0x01 })) 0 0,
      fbRead (after (exec .clearData { blank 0 0 [] with fb := [(0, 5), (128, 7)], dirty := 0x01 })) 1 0) =
      (0x00#8, 0x07#8) := by decide

/-- C-4: the mask stays. -/
theorem test_clearScreen_keeps_mask :
    (fbRead (after (exec .clearScreen { blank 0 0 [] with fb := [(0, 1)], dirty := 0x01 })) 0 0,
      (after (exec .clearScreen { blank 0 0 [] with fb := [(0, 1)], dirty := 0x01 })).dirty) = (0x00#8, 0x01#8) := by
  decide

/-- X-4: 17 writes, the burst first. -/
theorem test_init_writes :
    ((after (exec .init (blank 0 0 []))).busLog.length, (after (exec .init (blank 0 0 []))).busLog.head?) =
      (17, some { addr := 0x3C, bytes := List.replicate 18 0xAF }) := by decide

/-- 1.4: page 1's command, then page 2's. -/
theorem test_render_commands :
    ((after (exec .render { blank 0 0 [] with dirty := 0x06 })).busLog.map fun w => w.bytes.take 4)[2]? =
      some [0x00#8, 0x00#8, 0x10#8, 0xB2#8] := by decide

/-- X-1: a clean render sends nothing. -/
theorem test_render_clean : after (exec .render (blank 0 0 [])) = blank 0 0 [] := by decide

/-- L-2, its second word. -/
theorem test_setCursor :
    (regRead (afterWord 0xB0000605 { blank 0 0 [] with cur := some ⟨3, 4⟩ }) 0x401,
      regRead (afterWord 0xB0000605 { blank 0 0 [] with cur := some ⟨3, 4⟩ }) 0x400) =
      (0x04030605#32, 0x00000300#32) := by decide

/-- L-7: the line from (1,2) to (0,0) is not the one from (0,0) to (1,2). -/
theorem test_lineTo :
    (fbRead (afterWord 0xC0000000 { blank 0 0 [0, 1] with cur := some ⟨1, 2⟩ }) 0 0,
      fbRead (afterWord 0xC0000000 { blank 0 0 [0, 1] with cur := some ⟨1, 2⟩ }) 0 1) = (0x03#8, 0x04#8) := by decide

/-- L-4. -/
theorem test_lineTo_unset : regRead (afterWord 0xC0000103 (blank 0 0 [])) 0x400 = 0x00000061#32 := by decide

/-- E-12: the height word tells the length. -/
theorem test_height_word :
    (afterWord 0x00000010 { blank 0 0 [] with parse := .collect 0x60010000 none [] 0 }).parse =
      .collect 0x60010000 (some 16) [] 1 := by decide

/-- F-5: the fault state discards words. -/
theorem test_fault_discards :
    (afterWord 0x10000000 { blank 0 0 [] with fault := true, faultCause := 4 }).dirty = 0x00#8 := by decide

/-- F-3. -/
theorem test_params_register : regRead (blank 0 0 []) 0x403 = 0x7E060880#32 := by decide

/-- 95_test_vectors.md section 2.7. -/
theorem test_linePoints_ten_three :
    linePoints 10 0 0 3 =
      [(10, 0), (9, 0), (8, 1), (7, 1), (6, 1), (5, 2), (4, 2), (3, 2), (2, 2), (1, 3), (0, 3)] := by decide

/-- The instruction placed by `withFetchWord` is the next step's, the words before its last already in the parser. -/
theorem test_withFetchWord_number :
    step (State.reset.withFetchWord 32 0x50000000) = exec (.drawNumber 0 0 0 0) State.reset := by rfl

/-! ### Witnesses: values that meet the hypotheses of each statement -/

theorem test_witness_DecodeInvertsEncode : (Instr.showImage 0 0 255 8 (List.replicate 255 1)).wf = true := by decide

theorem test_witness_DecodedCommandKeepsItsHeader :
    decode [0x40010000#32, 0xFFFFFF41#32, 0x00000007#32] = .ok (.drawString 0 0 [0x41], [0x00000007#32]) := by decide

/-- `OP` 0xD and 0xF on one side of the boundary, 0xC on the other. -/
theorem test_witness_IllegalOpcodeFaults :
    (blank 0 0 []).fault = false ∧ (blank 0 0 []).parse = .idle ∧
      13 ≤ (opField 0xD0000000#32).toNat ∧ 13 ≤ (opField 0xFFFFFFFF#32).toNat ∧ (opField 0xC0000000#32).toNat < 13 := by
  decide

theorem test_witness_AwaitsHeight : AwaitsHeight 0x60010000 (.collect 0x60010000 none [] 0) :=
  ⟨by decide, 0, rfl⟩

/-- A reserved bit of a header and of a height word, and a payload state of an image and of a string. -/
theorem test_witness_ReservedBitsFault :
    (opField 0x21000000#32 = Opcode.drawPixels.toBits ∧ 0x21000000#32 &&& Opcode.drawPixels.rsvMask ≠ 0#32) ∧
      (0x00000110#32).extractLsb' 8 24 ≠ 0#24 ∧
      ¬ AwaitsHeight 0x60010000 (.collect 0x60010000 (some 16) [] 1) ∧
      ¬ AwaitsHeight 0x40040000 (.collect 0x40040000 none [] 1) := by
  refine ⟨by decide, by decide, ?_, ?_⟩
  · rintro ⟨-, n, h⟩
    cases h
  · rintro ⟨h, -⟩
    exact absurd h (by decide)

theorem test_witness_ImageHeightFaultsAtTheHeightWord :
    (0x0000000C#32).extractLsb' 8 24 = 0#24 ∧ ((0x0000000C#32).extractLsb' 0 8).toNat % 8 ≠ 0 := by decide

/-- A command of one word from Idle, and the last word of a string. -/
theorem test_witness_StepRunsTheDecodedCommand :
    decode (pendingWords .idle ++ [0x10000D0A#32]) = .ok (.drawPixel 10 13, []) ∧
      (Parse.collect 0x40050000 none [0x4C4C4548#32] 2).wf = true ∧
      decode (pendingWords (.collect 0x40050000 none [0x4C4C4548#32] 2) ++ [0x0000004F#32]) =
        .ok (.drawString 0 0 [0x48, 0x45, 0x4C, 0x4C, 0x4F], []) ∧
      (Parse.collect 0x60050000 none [] 0).wf = true ∧
      decode (pendingWords (.collect 0x60050000 none [] 0) ++ [0x00000000#32]) = .ok (.showImage 0 0 5 0 [], []) := by
  decide

theorem test_witness_WordsOfACommandRunIt :
    decode [0x6002000A#32, 0x00000010#32, 0x04030201#32] = .ok (.showImage 10 0 2 16 [1, 2, 3, 4], []) := by decide

theorem test_witness_PartialCommandHasNoEffect :
    decode [] = .error .truncated ∧ decode [0x60010000#32] = .error .truncated ∧
      decode [0x60010000#32, 0x00000010#32] = .error .truncated := by decide

/-- A faulted state with words and a read to come, and no reset. -/
theorem test_witness_FaultState :
    ({ blank 0 0 [] with fault := true, hostQueue := [.word 0xA0000000, .read 0x400] } : State).fault = true ∧
      HostEvent.reset ∉ ({ blank 0 0 [] with fault := true, hostQueue := [.word 0xA0000000, .read 0x400] } : State).hostQueue := by
  decide

theorem test_witness_ReadsHaveNoSideEffects :
    ({ blank 0 0 [] with hostQueue := [.read 0x400, .read 0x400] } : State).hostQueue = .read 0x400 :: .read 0x400 :: [] := by
  decide

theorem test_witness_ResetRestoresEveryRegister :
    ({ blank 0 0 [] with hostQueue := [.reset] } : State).hostQueue = .reset :: [] := by decide

/-- A good state in the middle of a command, with a drawn cell, a dirty page, both cursors and a word to come. -/
def goodState : State :=
  { blank 2 3 [0] with
    dirty := 0x01, cur := some ⟨3, 4⟩, prev := some ⟨1, 1⟩, parse := .collect 0x50010000 none [] 1,
    hostQueue := [.word 0x00000005] }

theorem test_witness_inv : Inv goodState where
  params := by decide
  memory := by decide
  parse := by decide
  cursors := by decide
  running := by decide
  faulted := by decide
  bus := .empty

/-- A good state takes a step, to a state with a digit drawn. -/
theorem test_witness_StepKeepsGoodStates : ∃ t, step goodState = .next t ∧ t.dirty = 0x01#8 ∧ t.parse = .idle :=
  ⟨_, rfl, by decide, by decide⟩

theorem test_witness_leavesBuffer :
    leavesBuffer .nop = true ∧ leavesBuffer .init = true ∧ leavesBuffer .render = true ∧
      leavesBuffer (.setCursor 1 2) = true := by decide

theorem test_witness_OnlyFlushesClearDirtyBits :
    usesBus .clearScreen = false ∧ usesBus (.lineTo 0 0) = false ∧ isDirty goodState.dirty 0 = true := by decide

theorem test_witness_FaultingCommandHasNoOtherEffect :
    goodState.fault = false ∧ (after (exec (.drawPixel 255 255) goodState)).fault = true := by decide

/-- The last aligned row, the last unaligned one and the first that is refused. -/
theorem test_witness_PixelsWritesOneSlice :
    (∀ cell ∈ pixCells 127 56, cell.1 < 8 ∧ cell.2 < 128) ∧ (∀ cell ∈ pixCells 0 55, cell.1 < 8 ∧ cell.2 < 128) ∧
      ¬ (∀ cell ∈ pixCells 0 57, cell.1 < 8 ∧ cell.2 < 128) := by decide

theorem test_witness_UnalignedSliceRecombines :
    sliceInRange { x := 127, y := 56, v := 0xA5 } = true ∧ sliceInRange { x := 5, y := 19, v := 0xA5 } = true ∧
      fbRead (blank 0 0 [261, 389]) 2 5 = 0 ∧ fbRead (blank 0 0 [261, 389]) 3 5 = 0 := by decide

theorem test_witness_NopRule :
    opField 0x00000000#32 = 0x0#4 ∧ opField 0x00000001#32 = 0x0#4 ∧
      ([] : List Word).length + 1 < 2 ∧ (Parse.collect 0x40050000 none [] 2).wf = true := by decide

/-- In range at the corner, and out of range by one column and by one row. -/
theorem test_witness_DrawPixelRule :
    ((125#8).toNat + (blank 2 3 []).params.originX.toNat < 128 ∧ (60#8).toNat + (blank 2 3 []).params.originY.toNat < 64) ∧
      128 ≤ (126#8).toNat + (blank 2 3 []).params.originX.toNat ∧
      64 ≤ (61#8).toNat + (blank 2 3 []).params.originY.toNat := by decide

/-- Aligned 56 and unaligned 55 are legal; 57, 63, row 64 and column 128 are not. -/
theorem test_witness_DrawPixelsRule :
    ((127#8).toNat < 128 ∧ (56#8).toNat < 64 ∧ ¬ ((56#8).toNat % 8 ≠ 0 ∧ (56#8).toNat / 8 = 7)) ∧
      ¬ ((55#8).toNat % 8 ≠ 0 ∧ (55#8).toNat / 8 = 7) ∧
      ((57#8).toNat % 8 ≠ 0 ∧ (57#8).toNat / 8 = 7) ∧ ((63#8).toNat % 8 ≠ 0 ∧ (63#8).toNat / 8 = 7) ∧
      64 ≤ (64#8).toNat ∧ 128 ≤ (128#8).toNat := by decide

theorem test_witness_GlyphByteReadsTheTable :
    (testParams 0 0).Wf ∧ charInRange (testParams 0 0) 0x20 = true ∧ charInRange (testParams 0 0) 0x7E = true ∧
      charInRange (testParams 0 0) 0x1F = false ∧ charInRange (testParams 0 0) 0x7F = false := by decide

theorem test_witness_DrawCharRule :
    (0x20 ≤ (0x20#8).toNat ∧ (0x7E#8).toNat ≤ (testParams 0 0).glyphLast.toNat ∧ (122#8).toNat ≤ 122 ∧ (56#8).toNat ≤ 56) ∧
      (0x1F#8).toNat < 0x20 ∧ (testParams 0 0).glyphLast.toNat < (0x7F#8).toNat ∧
      122 < (123#8).toNat ∧ 56 < (57#8).toNat := by decide

/-- 21 characters fit from column 2 on, 22 do not fit at all; a 0x00 byte is out of the table. -/
theorem test_witness_DrawStringRule :
    (∀ c ∈ List.replicate 21 0x41#8, 0x20 ≤ c.toNat ∧ c.toNat ≤ (testParams 0 0).glyphLast.toNat) ∧
      (2#8).toNat + 6 * (List.replicate 21 0x41#8).length ≤ 128 ∧
      128 < (0#8).toNat + 6 * (List.replicate 22 0x41#8).length ∧
      (∃ c ∈ [0x41#8, 0x00#8], c.toNat < 0x20 ∨ (testParams 0 0).glyphLast.toNat < c.toNat) := by decide

theorem test_witness_DrawNumberRule :
    (2#8).toNat + 6 * (21#8).toNat ≤ 128 ∧ (22#8 ≠ 0 ∧ 128 < (0#8).toNat + 6 * (22#8).toNat) ∧
      (1#8 ≠ 0 ∧ 56 < (57#8).toNat) := by decide

/-- A whole-height aligned image, a 7-page unaligned one, and each one page or one column too far. -/
theorem test_witness_ShowImageRule :
    (Instr.showImage 0 0 2 64 (List.replicate 16 1)).wf = true ∧ (0#8).toNat / 8 + (64#8).toNat / 8 ≤ 8 ∧
      (1#8).toNat / 8 + (56#8).toNat / 8 ≤ 7 ∧ 8 < (8#8).toNat / 8 + (64#8).toNat / 8 ∧
      7 < (1#8).toNat / 8 + (64#8).toNat / 8 ∧ 128 < (127#8).toNat + (2#8).toNat ∧
      (Instr.showImage 200 200 0 8 []).wf = true ∧ (Instr.showImage 0 0 5 0 []).wf = true := by decide

theorem test_witness_SecondRenderSendsNothing :
    ∃ t, exec .render { blank 0 0 [] with dirty := 0x06 } = .next t ∧ t.dirty = 0 := ⟨_, rfl, by decide⟩

/-- A line inside the buffer, one that leaves it, and no cursor. -/
theorem test_witness_LineToRule :
    (∀ u ∈ linePoints 2 6 2 10, u.1 + (testParams 0 0).originX.toNat < 128 ∧ u.2 + (testParams 0 0).originY.toNat < 64) ∧
      (∃ u ∈ linePoints 0 60 0 64, 128 ≤ u.1 + (testParams 0 0).originX.toNat ∨ 64 ≤ u.2 + (testParams 0 0).originY.toNat) ∧
      (blank 0 0 []).cur = none ∧ goodState.cur = some ⟨3, 4⟩ ∧ goodState.params.Wf := by decide

theorem test_witness_LineToFaultsExactlyWhenAnEndIsOutside :
    goodState.cur = some ⟨3, 4⟩ ∧ goodState.params.Wf ∧ (125#8).toNat + goodState.params.originX.toNat < 128 ∧
      ¬ (126#8).toNat + goodState.params.originX.toNat < 128 := by decide

theorem test_witness_ReadPortMap :
    (0x3FF#12).toNat = 128 * 7 + 127 ∧ 0x405 ≤ (0x405#12).toNat ∧ 0x405 ≤ (0xFFF#12).toNat := by decide

theorem test_witness_UnmappedReadsGiveZero :
    0x405 ≤ (0x405#12).toNat ∧ ({ blank 0 0 [] with hostQueue := [.read 0x405] } : State).hostQueue = .read 0x405 :: [] := by
  decide

/-- The corner pixel, in its last page and row. -/
theorem test_witness_PlotSetsOnePixel : (127 < 128 ∧ 63 < 64) ∧ 63 / 8 = 7 ∧ 63 % 8 = 7 := by decide

theorem test_witness_StepKeepsTheParameters : ∃ t, step goodState = .next t ∧ t.params = testParams 2 3 :=
  ⟨_, rfl, by decide⟩

theorem test_witness_GoodRunsNeverStop : ∃ t, runSteps 2 goodState = .next t ∧ t.hostQueue = [] := ⟨_, rfl, by decide⟩

theorem test_witness_DrawNumberIsDrawString :
    goodState.params.Wf ∧ (2#8).toNat + 6 * (21#8).toNat ≤ 128 ∧ (56#8).toNat ≤ 56 := by decide

/-- A legal and an illegal word of each command without operands and of the cursor commands. -/
theorem test_witness_header_clauses :
    (opField 0x70000000#32 = 0x7#4 ∧ opField 0x70000001#32 = 0x7#4) ∧
      (opField 0x80000000#32 = 0x8#4 ∧ opField 0x80000001#32 = 0x8#4) ∧
      (opField 0x90000000#32 = 0x9#4 ∧ opField 0x90000001#32 = 0x9#4) ∧
      (opField 0xA0000000#32 = 0xA#4 ∧ opField 0xA0000001#32 = 0xA#4) ∧
      (opField 0xB000FFFF#32 = 0xB#4 ∧ opField 0xB0010000#32 = 0xB#4) ∧
      (opField 0xC000FFFF#32 = 0xC#4 ∧ opField 0xC0010000#32 = 0xC#4) := by decide

theorem test_witness_ClearScreenRule : (0x3FF#12).toNat < 0x400 := by decide

/-- Both points set, and neither. -/
theorem test_witness_CursorFields :
    (goodState.cur = some ⟨3, 4⟩ ∧ goodState.prev = some ⟨1, 1⟩) ∧
      (blank 0 0 []).cur = none ∧ (blank 0 0 []).prev = none := by decide

theorem test_witness_LineIsConnectedInItsBox :
    (2, 6) ∈ linePoints 2 6 2 10 ∧ (linePoints 2 6 2 10)[3]? = some (2, 9) ∧
      (linePoints 2 6 2 10)[3 + 1]? = some (2, 10) := by decide

end Sys2Proof.Tests
end

section
/-! Proofs about the state and the read port (10_state.md): the cells that commands and reads leave alone (R32), the cursor
update (R39), and the fields of the registers `STATUS`, `CURSOR`, `ORIGIN` and `PARAMS` (R44 to R47). -/

namespace Sys2Proof.Machine

/-! ### The cells (R32) -/

/-- The same written cells and the same free draws read the same everywhere. -/
theorem SameCells.of_fb_epoch {s t : State} (hfb : t.fb = s.fb) (hepoch : t.epoch = s.epoch) : SameCells s t :=
  fun p _ c _ => fbRead_congr hfb hepoch p c

/-- A flush writes no cell (R224). -/
@[simp] theorem renderWith_fb (bus : Nat → BusResult) (s : State) : (renderWith bus s).fb = s.fb := by
  rw [renderWith_eq]

/-- A flush is no reset, so the free draws stay. -/
@[simp] theorem renderWith_epoch (bus : Nat → BusResult) (s : State) : (renderWith bus s).epoch = s.epoch := by
  rw [renderWith_eq]

@[simp] theorem initWith_fb (bus : Nat → BusResult) (s : State) : (initWith bus s).fb = s.fb :=
  renderWith_fb bus _

@[simp] theorem initWith_epoch (bus : Nat → BusResult) (s : State) : (initWith bus s).epoch = s.epoch :=
  renderWith_epoch bus _

theorem exec_nop (s : State) : exec .nop s = .next s := rfl

theorem exec_init (s : State) : exec .init s = .next (initWith (busOf s) s) := rfl

theorem exec_render (s : State) : exec .render s = .next (renderWith (busOf s) s) := rfl

theorem exec_setCursor (x y : Byte) (s : State) :
    exec (.setCursor x y) s = .next (updateCursor { x := x, y := y } s) := rfl

/-- The commands outside R32's list of writers answer a state with the same written cells and the same free draws. -/
theorem exec_fb_epoch_of_leavesBuffer {i : Instr} (hi : leavesBuffer i = true) (s : State) :
    ∃ t, exec i s = .next t ∧ t.fb = s.fb ∧ t.epoch = s.epoch := by
  cases i with
  | nop => exact ⟨_, exec_nop s, rfl, rfl⟩
  | init => exact ⟨_, exec_init s, initWith_fb _ s, initWith_epoch _ s⟩
  | render => exact ⟨_, exec_render s, renderWith_fb _ s, renderWith_epoch _ s⟩
  | setCursor x y => exact ⟨_, exec_setCursor x y s, updateCursor_fb _ s, updateCursor_epoch _ s⟩
  | drawPixel | drawPixels | drawChar | drawString | drawNumber | showImage | clearData | clearScreen | lineTo =>
    cases hi

/-- Settles O19: the four commands one by one, and the read port, whose answer is the host's and not the FBD's. -/
theorem onlyDrawingAndClearsWriteTheBuffer : Obligations.OnlyDrawingAndClearsWriteTheBuffer := by
  refine ⟨fun i s hi => ?_, fun a s => ?_⟩
  · obtain ⟨t, hexec, hfb, hepoch⟩ := exec_fb_epoch_of_leavesBuffer hi s
    exact ⟨t, hexec, hfb, SameCells.of_fb_epoch hfb hepoch⟩
  · exact ⟨answerRead_fb a s, SameCells.of_fb_epoch (answerRead_fb a s) (answerRead_epoch a s)⟩

/-! ### The cursor update (R39) -/

/-- Settles O42: one update moves `cur` to `prev`, so of two updates from reset the first point ends in `prev`. -/
theorem cursorUpdateShiftsPoints : Obligations.CursorUpdateShiftsPoints := by
  refine ⟨fun v s => ⟨updateCursor_prev v s, updateCursor_cur v s⟩, fun v w => ⟨?_, ?_, updateCursor_cur w _⟩⟩
  · calc (updateCursor v State.reset).prev
      _ = State.reset.cur := updateCursor_prev v _
      _ = none := rfl
  · calc (updateCursor w (updateCursor v State.reset)).prev
      _ = (updateCursor v State.reset).cur := updateCursor_prev w _
      _ = some v := updateCursor_cur v _

/-! ### The register indices (R72) -/

theorem regRead_0x400 (s : State) : regRead s 0x400 = statusReg s := rfl

theorem regRead_0x401 (s : State) : regRead s 0x401 = cursorReg s := rfl

theorem regRead_0x402 (s : State) : regRead s 0x402 = originReg s := rfl

theorem regRead_0x403 (s : State) : regRead s 0x403 = paramsReg s := rfl

/-! ### `STATUS` (R44)

Each register is its fields appended, so a field is read by dropping the fields below it and keeping the next one. -/

/-- A one-bit field and the bit itself say the same. -/
theorem getLsbD_of_extractLsb'_eq_ofBool {n i : Nat} {w : BitVec n} {b : Bool}
    (h : w.extractLsb' i 1 = BitVec.ofBool b) : w.getLsbD i = b := by
  have hbit := congrArg (fun v => v.getLsbD 0) h
  simpa using hbit

/-- The parser is busy exactly outside Idle (R40). -/
theorem Parse.busy_eq_decide_ne_idle (p : Parse) : p.busy = decide (p ≠ .idle) := by
  cases p with
  | idle => rfl
  | collect hdr aux words need => rfl

theorem statusReg_fault (s : State) : (statusReg s).extractLsb' 0 1 = BitVec.ofBool s.fault :=
  BitVec.extractLsb'_append_eq_right

theorem statusReg_reserved_3_1 (s : State) : (statusReg s).extractLsb' 1 3 = 0#3 := by
  simp (disch := decide) only [statusReg, BitVec.extractLsb'_append_eq_of_le,
    BitVec.extractLsb'_append_eq_right, Nat.reduceSub]

theorem statusReg_faultCause (s : State) : (statusReg s).extractLsb' 4 4 = s.faultCause := by
  simp (disch := decide) only [statusReg, BitVec.extractLsb'_append_eq_of_le,
    BitVec.extractLsb'_append_eq_right, Nat.reduceSub]

theorem statusReg_curValid (s : State) : (statusReg s).extractLsb' 8 1 = BitVec.ofBool s.cur.isSome := by
  simp (disch := decide) only [statusReg, curValid, BitVec.extractLsb'_append_eq_of_le,
    BitVec.extractLsb'_append_eq_right, Nat.reduceSub]

theorem statusReg_prevValid (s : State) : (statusReg s).extractLsb' 9 1 = BitVec.ofBool s.prev.isSome := by
  simp (disch := decide) only [statusReg, prevValid, BitVec.extractLsb'_append_eq_of_le,
    BitVec.extractLsb'_append_eq_right, Nat.reduceSub]

theorem statusReg_parseBusy (s : State) :
    (statusReg s).extractLsb' 10 1 = BitVec.ofBool (decide (s.parse ≠ .idle)) := by
  rw [← Parse.busy_eq_decide_ne_idle]
  simp (disch := decide) only [statusReg, parseBusy, BitVec.extractLsb'_append_eq_of_le,
    BitVec.extractLsb'_append_eq_right, Nat.reduceSub]

theorem statusReg_reserved_15_11 (s : State) : (statusReg s).extractLsb' 11 5 = 0#5 := by
  simp (disch := decide) only [statusReg, BitVec.extractLsb'_append_eq_of_le,
    BitVec.extractLsb'_append_eq_right, Nat.reduceSub]

theorem statusReg_dirty (s : State) : (statusReg s).extractLsb' 16 8 = s.dirty := by
  simp (disch := decide) only [statusReg, BitVec.extractLsb'_append_eq_of_le,
    BitVec.extractLsb'_append_eq_right, Nat.reduceSub]

theorem statusReg_reserved_31_24 (s : State) : (statusReg s).extractLsb' 24 8 = 0#8 := by
  simp (disch := decide) only [statusReg, BitVec.extractLsb'_append_eq_of_le,
    BitVec.extractLsb'_eq_self, Nat.reduceSub]

/-- `STATUS[8]` as a bit: whether the current point is set. -/
theorem statusReg_getLsbD_8 (s : State) : (statusReg s).getLsbD 8 = s.cur.isSome :=
  getLsbD_of_extractLsb'_eq_ofBool (statusReg_curValid s)

/-- `STATUS[9]` as a bit: whether the previous point is set. -/
theorem statusReg_getLsbD_9 (s : State) : (statusReg s).getLsbD 9 = s.prev.isSome :=
  getLsbD_of_extractLsb'_eq_ofBool (statusReg_prevValid s)

/-- Settles O49: the nine fields of R44 from bit 0 up, and the word at reset by evaluation. -/
theorem statusFields : Obligations.StatusFields := by
  refine ⟨fun s => ?_, rfl⟩
  rw [regRead_0x400]
  exact ⟨statusReg_fault s, statusReg_reserved_3_1 s, statusReg_faultCause s, statusReg_curValid s,
    statusReg_prevValid s, statusReg_parseBusy s, statusReg_reserved_15_11 s, statusReg_dirty s,
    statusReg_reserved_31_24 s⟩

/-! ### `CURSOR` (R45) -/

theorem cursorReg_curX (s : State) : (cursorReg s).extractLsb' 0 8 = pointX s.cur :=
  BitVec.extractLsb'_append_eq_right

theorem cursorReg_curY (s : State) : (cursorReg s).extractLsb' 8 8 = pointY s.cur := by
  simp (disch := decide) only [cursorReg, BitVec.extractLsb'_append_eq_of_le,
    BitVec.extractLsb'_append_eq_right, Nat.reduceSub]

theorem cursorReg_prevX (s : State) : (cursorReg s).extractLsb' 16 8 = pointX s.prev := by
  simp (disch := decide) only [cursorReg, BitVec.extractLsb'_append_eq_of_le,
    BitVec.extractLsb'_append_eq_right, Nat.reduceSub]

theorem cursorReg_prevY (s : State) : (cursorReg s).extractLsb' 24 8 = pointY s.prev := by
  simp (disch := decide) only [cursorReg, BitVec.extractLsb'_append_eq_of_le,
    BitVec.extractLsb'_eq_self, Nat.reduceSub]

/-- The two fields of `CURSOR` that show the current point, read together. -/
theorem cursorReg_cur (s : State) : (cursorReg s).extractLsb' 0 16 = pointY s.cur ++ pointX s.cur := by
  have halves : cursorReg s = (pointY s.prev ++ pointX s.prev) ++ (pointY s.cur ++ pointX s.cur) :=
    BitVec.append_assoc
  rw [halves]
  exact BitVec.extractLsb'_append_eq_right

/-- The two fields of `CURSOR` that show the previous point, read together. -/
theorem cursorReg_prev (s : State) : (cursorReg s).extractLsb' 16 16 = pointY s.prev ++ pointX s.prev := by
  simp (disch := decide) only [cursorReg, BitVec.extractLsb'_append_eq_of_le,
    BitVec.extractLsb'_eq_self, Nat.reduceSub]

/-- Settles O50: `pointX` and `pointY` give the coordinates of a set point and 0 for none. -/
theorem cursorFields : Obligations.CursorFields := by
  refine ⟨fun s => ?_, rfl⟩
  rw [regRead_0x400, regRead_0x401]
  refine ⟨fun q hq => ?_, fun hnone => ?_, fun q hq => ?_, fun hnone => ?_,
    statusReg_getLsbD_8 s, statusReg_getLsbD_9 s⟩
  · rw [cursorReg_curX, cursorReg_curY, hq]
    exact ⟨rfl, rfl⟩
  · rw [cursorReg_cur, hnone]
    rfl
  · rw [cursorReg_prevX, cursorReg_prevY, hq]
    exact ⟨rfl, rfl⟩
  · rw [cursorReg_prev, hnone]
    rfl

/-! ### `ORIGIN` and `PARAMS` (R46, R47) -/

theorem originReg_x (s : State) : (originReg s).extractLsb' 0 8 = s.params.originX :=
  BitVec.extractLsb'_append_eq_right

theorem originReg_y (s : State) : (originReg s).extractLsb' 8 8 = s.params.originY := by
  simp (disch := decide) only [originReg, BitVec.extractLsb'_append_eq_of_le,
    BitVec.extractLsb'_append_eq_right, Nat.reduceSub]

theorem originReg_reserved_31_16 (s : State) : (originReg s).extractLsb' 16 16 = 0#16 := by
  simp (disch := decide) only [originReg, BitVec.extractLsb'_append_eq_of_le,
    BitVec.extractLsb'_eq_self, Nat.reduceSub]

/-- `PARAMS` is `GLYPH_LAST` above three hardwired bytes (R47). -/
theorem paramsReg_eq_append (s : State) : paramsReg s = s.params.glyphLast ++ 0x060880#24 := by
  calc paramsReg s
    _ = s.params.glyphLast ++ 0x06#8 ++ (0x08#8 ++ 0x80#8) := BitVec.append_assoc
    _ = s.params.glyphLast ++ (0x06#8 ++ (0x08#8 ++ 0x80#8)) := BitVec.append_assoc
    _ = s.params.glyphLast ++ 0x060880#24 := rfl

/-- A field below `GLYPH_LAST` is a field of the hardwired bytes. -/
theorem paramsReg_extractLsb'_of_le (s : State) {start len : Nat} (h : start + len ≤ 24) :
    (paramsReg s).extractLsb' start len = (0x060880#24).extractLsb' start len := by
  rw [paramsReg_eq_append]
  exact BitVec.extractLsb'_append_eq_of_add_le h

theorem paramsReg_glyphLast (s : State) : (paramsReg s).extractLsb' 24 8 = s.params.glyphLast := by
  rw [paramsReg_eq_append]
  exact BitVec.extractLsb'_append_eq_left

/-- `PARAMS` as R47 writes its value: `GLYPH_LAST << 24 | 0x00060880`. -/
theorem paramsReg_eq_shiftLeft_or (s : State) :
    paramsReg s = (s.params.glyphLast.setWidth 32 <<< 24) ||| 0x00060880#32 := by
  calc paramsReg s
    _ = (s.params.glyphLast ++ 0x060880#24).setWidth 32 := by rw [paramsReg_eq_append, BitVec.setWidth_eq]
    _ = (s.params.glyphLast.setWidth 32 <<< 24) ||| (0x060880#24).setWidth 32 :=
      BitVec.setWidth_append_eq_shiftLeft_setWidth_or
    _ = (s.params.glyphLast.setWidth 32 <<< 24) ||| 0x00060880#32 := rfl

/-- Settles O51: the fields of the two words, and `PARAMS` as one shifted and ORed word. -/
theorem originAndParamsFields : Obligations.OriginAndParamsFields := by
  intro s
  rw [regRead_0x402, regRead_0x403]
  exact ⟨originReg_x s, originReg_y s, originReg_reserved_31_16 s,
    paramsReg_extractLsb'_of_le s (by decide), paramsReg_extractLsb'_of_le s (by decide),
    paramsReg_extractLsb'_of_le s (by decide), paramsReg_glyphLast s, paramsReg_eq_shiftLeft_or s⟩

end Sys2Proof.Machine
end

section
/-! Proofs about the read port (20_memory.md): the map of its indices (R72), the unmapped indices (R73), and a host read as a
step of the machine, which leaves the FBD as it was (R74). -/

namespace Sys2Proof.Machine

/-! ### The map of the indices (R72) -/

/-- Below `0x400` an index names the cell at page `a div 128` and column `a mod 128`. -/
theorem regRead_of_lt_0x400 {a : BitVec 12} (ha : a.toNat < 0x400) (s : State) :
    regRead s a = (fbRead s (a.toNat / 128) (a.toNat % 128)).setWidth 32 :=
  if_pos ha

/-- The index `128 p + c` of a cell splits back into its page and its column. -/
theorem regRead_cell {a : BitVec 12} {p c : Nat} (hp : p < 8) (hc : c < 128) (ha : a.toNat = 128 * p + c) (s : State) :
    regRead s a = (fbRead s p c).setWidth 32 := by
  have hpage : a.toNat / 128 = p := by omega
  have hcolumn : a.toNat % 128 = c := by omega
  rw [regRead_of_lt_0x400 (by omega), hpage, hcolumn]

theorem regRead_0x404 (s : State) : regRead s 0x404 = s.faultInfo := rfl

/-- Above the cells and the five registers nothing is mapped. -/
theorem regRead_unmapped {a : BitVec 12} (ha : 0x405 ≤ a.toNat) (s : State) : regRead s a = 0#32 := by
  rw [regRead, if_neg (by omega), if_neg (by omega), if_neg (by omega), if_neg (by omega), if_neg (by omega),
    if_neg (by omega)]

/-- Settles O47: the cells, the five registers, and the indices above them. -/
theorem readPortMap : Obligations.ReadPortMap := fun s =>
  ⟨fun _ _ _ hp hc ha => regRead_cell hp hc ha s, regRead_0x400 s, regRead_0x401 s, regRead_0x402 s, regRead_0x403 s,
    regRead_0x404 s, fun _ ha => regRead_unmapped ha s⟩

/-! ### A host read as a step (R73, R74) -/

/-- An answer depends on the FBD's elements only, not on the host's coming actions or on earlier answers. -/
theorem regRead_of_host (s : State) (queue : List HostEvent) (log : List (BitVec 12 × Word)) (a : BitVec 12) :
    regRead { s with hostQueue := queue, readLog := log } a = regRead s a := rfl

/-- A step takes the host's next action. -/
theorem step_of_hostQueue_cons {s : State} {e : HostEvent} {rest : List HostEvent} (hq : s.hostQueue = e :: rest) :
    step s = acceptEvent e { s with hostQueue := rest } := by
  rw [step, hq]

/-- A read is answered whatever the state, the fault state included: the parser and the fault flag are not asked. -/
theorem step_of_read {s : State} {a : BitVec 12} {rest : List HostEvent} (hq : s.hostQueue = .read a :: rest) :
    step s = .next { s with hostQueue := rest, readLog := s.readLog ++ [(a, regRead s a)] } :=
  step_of_hostQueue_cons hq

/-- A run whose first step answers a state goes on from that state. -/
theorem runSteps_succ_of_step {s t : State} (h : step s = .next t) (k : Nat) : runSteps (k + 1) s = runSteps k t := by
  rw [runSteps, h]

/-- Settles O48: the step of a read, with the answer of an unmapped index. -/
theorem unmappedReadsGiveZero : Obligations.UnmappedReadsGiveZero := by
  intro s a rest ha hq
  rw [step_of_read hq, regRead_unmapped ha]

/-- Settles O13: the first read changes no element an answer depends on, so the second read gives the first one's answer. -/
theorem readsHaveNoSideEffects : Obligations.ReadsHaveNoSideEffects := by
  intro s a rest hq
  calc runSteps 2 s
    _ = runSteps 1 { s with hostQueue := .read a :: rest, readLog := s.readLog ++ [(a, regRead s a)] } :=
      runSteps_succ_of_step (step_of_read hq) 1
    _ = runSteps 0 { s with hostQueue := rest, readLog := s.readLog ++ [(a, regRead s a)] ++ [(a, regRead s a)] } := by
      rw [runSteps_succ_of_step (step_of_read rfl), regRead_of_host s (.read a :: rest)]
    _ = .next { s with hostQueue := rest, readLog := s.readLog ++ [(a, regRead s a), (a, regRead s a)] } := by
      rw [runSteps, List.append_assoc, List.singleton_append]

end Sys2Proof.Machine
end

section
/-! Proofs about the encoding (30_encoding.md): the header words and height words the checks refuse (R122, R123), the parser's
move on a word, and the step that enters the fault state. -/

namespace Sys2Proof

/-! ### The words the checks refuse (R122, R123) -/

theorem Opcode.ofBits_eq_none_iff (b : BitVec 4) : Opcode.ofBits b = none ↔ 13 ≤ b.toNat := by
  revert b
  decide

/-- `OP` alone decides whether a header word is refused as an illegal opcode. -/
theorem checkHeader_eq_illegalOpcode_iff (h : Word) :
    checkHeader h = .error .illegalOpcode ↔ 13 ≤ (opField h).toNat := by
  rw [← Opcode.ofBits_eq_none_iff, checkHeader]
  cases Opcode.ofBits (opField h) with
  | none => simp
  | some op => by_cases hmask : h &&& op.rsvMask = 0#32 <;> simp [hmask]

theorem checkHeader_eq_reservedBits {h : Word} {op : Opcode} (hop : opField h = op.toBits)
    (hmask : h &&& op.rsvMask ≠ 0#32) : checkHeader h = .error .reservedBits := by
  rw [checkHeader, hop, ofBits_toBits]
  exact if_neg hmask

theorem checkHeight_eq_reservedBits {w : Word} (hw : w.extractLsb' 8 24 ≠ 0#24) :
    checkHeight w = .error .reservedBits :=
  if_neg hw

namespace Machine

/-! ### The parser's move on a word (R120) -/

/-- A header word that fails its checks is itself the word `FAULT_INFO` takes. -/
theorem idleMove_of_error {w : Word} {e : WordError} (hc : checkHeader w = .error e) :
    idleMove w = .fault (causeOf e) w := by
  rw [idleMove, hc]

/-- A height word that fails its checks leaves the image's header for `FAULT_INFO`. -/
theorem heightMove_of_error {h w : Word} {e : WordError} (hc : checkHeight w = .error e) :
    heightMove h w = .fault (causeOf e) h := by
  rw [heightMove, hc]

theorem parserMove_of_awaitsHeight {h : Word} {p : Parse} (hp : AwaitsHeight h p) (w : Word) :
    parserMove p w = heightMove h w := by
  obtain ⟨hop, need, rfl⟩ := hp
  exact if_pos ⟨hop, rfl, rfl⟩

theorem parserMove_of_not_awaitsHeight {h : Word} {aux : Option Byte} {words : List Word} {need : Nat}
    (hp : ¬ AwaitsHeight h (.collect h aux words need)) (w : Word) :
    parserMove (.collect h aux words need) w = payloadMove h aux words need w := by
  refine if_neg ?_
  rintro ⟨hop, rfl, rfl⟩
  exact hp ⟨hop, need, rfl⟩

/-- A payload word completes the command or leaves it going on: its bits are not asked (R123). -/
theorem payloadMove_ne_fault (h : Word) (aux : Option Byte) (words : List Word) (need : Nat) (w : Word)
    (cause : Cause) (info : Word) : payloadMove h aux words need w ≠ .fault cause info := by
  unfold payloadMove
  split
  · exact Move.noConfusion
  · exact Move.noConfusion

/-! ### The step on a refused word (R254) -/

/-- Outside the fault state a word the parser refuses is taken off the port and enters the fault state. -/
theorem step_of_parserMove_fault {s : State} {w info : Word} {rest : List HostEvent} {cause : Cause}
    (hrun : s.fault = false) (hq : s.hostQueue = .word w :: rest) (hmove : parserMove s.parse w = .fault cause info) :
    step s = .next (raise cause info { s with hostQueue := rest }) := by
  rw [step_cons hq]
  simp [acceptEvent, acceptWord, hrun, hmove]

/-- The step of an Idle parser on a header word that fails its checks. -/
theorem step_of_checkHeader_error {s : State} {w : Word} {rest : List HostEvent} {e : WordError}
    (hrun : s.fault = false) (hidle : s.parse = .idle) (hq : s.hostQueue = .word w :: rest)
    (hc : checkHeader w = .error e) : step s = .next (raise (causeOf e) w { s with hostQueue := rest }) := by
  refine step_of_parserMove_fault hrun hq ?_
  rw [hidle]
  exact idleMove_of_error hc

/-- The step of a waiting image on a height word that fails its checks. -/
theorem step_of_checkHeight_error {s : State} {h w : Word} {rest : List HostEvent} {e : WordError}
    (hrun : s.fault = false) (hwait : AwaitsHeight h s.parse) (hq : s.hostQueue = .word w :: rest)
    (hc : checkHeight w = .error e) : step s = .next (raise (causeOf e) h { s with hostQueue := rest }) := by
  refine step_of_parserMove_fault hrun hq ?_
  rw [parserMove_of_awaitsHeight hwait]
  exact heightMove_of_error hc

/-- Settles O5: both clauses are the two directions of `checkHeader_eq_illegalOpcode_iff`, the first one run as a step. -/
theorem illegalOpcodeFaults : Obligations.IllegalOpcodeFaults := by
  intro s w rest hrun hidle hq
  refine ⟨fun hop => ?_, fun hop hc => ?_⟩
  · exact step_of_checkHeader_error hrun hidle hq ((checkHeader_eq_illegalOpcode_iff w).mpr hop)
  · exact absurd ((checkHeader_eq_illegalOpcode_iff w).mp hc) (by omega)

/-- Settles O6: a header word in Idle, the height word of an image, and every other word of a command in progress. -/
theorem reservedBitsFault : Obligations.ReservedBitsFault := by
  refine ⟨fun s w op rest hrun hidle hq hop hmask => ?_, fun s h w rest hrun hwait hq hw => ?_,
    fun h aux words need w hp cause info => ?_⟩
  · exact step_of_checkHeader_error hrun hidle hq (checkHeader_eq_reservedBits hop hmask)
  · exact step_of_checkHeight_error hrun hwait hq (checkHeight_eq_reservedBits hw)
  · rw [parserMove_of_not_awaitsHeight hp]
    exact payloadMove_ne_fault h aux words need w cause info

end Machine

end Sys2Proof
end

section
/-! Proofs about pixels (40_raster_pixels.md): the pixels and the dirty bits after the primitives `Plot` (R140) and `Pixels`
(R142, R144), and the commands `DRAW_PIXEL` (R141) and `DRAW_PIXELS` (R143) with their words. -/

namespace Sys2Proof

/-! ### Commands of one header word (R101, R104) -/

/-- A mask of `len` ones from bit `start` on asks exactly for that field. -/
theorem and_ones_shiftLeft_eq_zero_iff {n : Nat} (w : BitVec n) {start len : Nat} (hfit : start + len ≤ n) :
    w &&& ((BitVec.allOnes len).setWidth n <<< start) = 0#n ↔ w.extractLsb' start len = 0#len := by
  constructor
  · intro hmask
    ext i hi
    have hbit := congrArg (fun v => v.getLsbD (start + i)) hmask
    have hn : start + i < n := by omega
    have hin : i < n := by omega
    simpa [hi, hn, hin] using hbit
  · intro hfield
    refine BitVec.eq_of_getLsbD_eq fun j hj => ?_
    have hbit := congrArg (fun v => v.getLsbD (j - start)) hfield
    by_cases hlow : j < start
    · simp [hlow]
    · have hcancel : start + (j - start) = j := by omega
      simp only [BitVec.getLsbD_extractLsb', hcancel, BitVec.getLsbD_zero] at hbit
      rw [BitVec.getLsbD_and, BitVec.getLsbD_shiftLeft, BitVec.getLsbD_setWidth, BitVec.getLsbD_allOnes,
        BitVec.getLsbD_zero]
      grind

theorem checkHeader_of_opField {h : Word} {op : Opcode} (hop : opField h = op.toBits) :
    checkHeader h = if h &&& op.rsvMask = 0#32 then .ok op else .error .reservedBits := by
  rw [checkHeader, hop, ofBits_toBits]

/-- The one word of a command that takes no payload is refused for its reserved bits or is the command. -/
theorem decode_header_only {w : Word} {op : Opcode} {i : Instr} (hop : opField w = op.toBits) (himage : op ≠ .showImage)
    (hneed : headerNeed op w = 0) (hinstr : instrOf op w none [] = some i) :
    decode [w] = if w &&& op.rsvMask = 0#32 then .ok (i, []) else .error (.badWord .reservedBits) := by
  have hpayload : decodePayload op w none (headerNeed op w) [] = .ok (i, []) := by
    simp [decodePayload, hneed, hinstr]
  rw [decode, checkHeader_of_opField hop]
  by_cases hmask : w &&& op.rsvMask = 0#32
  · rw [if_pos hmask, if_pos hmask, ← hpayload]
    split
    next hok => cases hok
    next hok => exact absurd (Except.ok.inj hok) himage
    next op' _ hok => rw [Except.ok.inj hok]
  · rw [if_neg hmask, if_neg hmask]

/-- The reserved bits of `DRAW_PIXEL` are bits 27 to 16. -/
theorem decode_drawPixel {w : Word} (hop : opField w = 0x1#4) :
    decode [w] =
      if w.extractLsb' 16 12 = 0#12 then .ok (.drawPixel (fieldA w) (fieldB w), [])
      else .error (.badWord .reservedBits) := by
  rw [decode_header_only (op := .drawPixel) hop (by decide) rfl rfl]
  simp only [← and_ones_shiftLeft_eq_zero_iff w (show 16 + 12 ≤ 32 by decide)]
  rfl

/-- The reserved bits of `DRAW_PIXELS` are bits 27 to 24. -/
theorem decode_drawPixels {w : Word} (hop : opField w = 0x2#4) :
    decode [w] =
      if w.extractLsb' 24 4 = 0#4 then .ok (.drawPixels (fieldA w) (fieldB w) (fieldC w), [])
      else .error (.badWord .reservedBits) := by
  rw [decode_header_only (op := .drawPixels) hop (by decide) rfl rfl]
  simp only [← and_ones_shiftLeft_eq_zero_iff w (show 24 + 4 ≤ 32 by decide)]
  rfl

namespace Machine

/-! ### The bits a shifted byte puts into a page (R75) -/

theorem getLsbD_one_shiftLeft (k i : Nat) : (1#8 <<< k).getLsbD i = (decide (k < 8) && decide (k = i)) :=
  BitVec.getLsbD_twoPow k i

/-- In the page of its top row a slice has the rows from `y` on. -/
theorem getLsbD_slice_upper (v : Byte) (y : Nat) {b : Nat} (hb : b < 8) :
    (v <<< (y % 8)).getLsbD b = (decide (y ≤ 8 * (y / 8) + b) && v.getLsbD (8 * (y / 8) + b - y)) := by
  have hrow : y ≤ 8 * (y / 8) + b ↔ y % 8 ≤ b := by omega
  have hindex : 8 * (y / 8) + b - y = b - y % 8 := by omega
  simp only [BitVec.getLsbD_shiftLeft, hrow, hindex, hb, decide_true, Bool.true_and, ← decide_not, Nat.not_lt]

/-- In the page below, a slice has the rows that did not fit, up to `y + 7`. -/
theorem getLsbD_slice_lower (v : Byte) (y b : Nat) :
    (v >>> (8 - y % 8)).getLsbD b = v.getLsbD (8 * (y / 8 + 1) + b - y) := by
  have hindex : 8 * (y / 8 + 1) + b - y = 8 - y % 8 + b := by omega
  rw [hindex, BitVec.getLsbD_ushiftRight]

/-! ### The dirty bits (R140, R144) -/

theorem isDirty_or_page (dirty : BitVec 8) (p : Nat) {q : Nat} (hq : q < 8) :
    isDirty (dirty ||| (1#8 <<< p)) q = (isDirty dirty q || decide (q = p)) := by
  rw [isDirty, isDirty, BitVec.getLsbD_or, getLsbD_one_shiftLeft]
  by_cases hpage : q = p
  · subst hpage
    simp [hq]
  · simp [hpage, Ne.symm hpage]

/-- `Pixels` marks the pages it addresses, whatever the data. -/
theorem isDirty_pixels (x y : Nat) (v : Byte) (s : State) {q : Nat} (hq : q < 8) :
    isDirty (pixels x y v s).dirty q =
      (isDirty s.dirty q || decide (q = y / 8 ∨ q = y / 8 + 1 ∧ y % 8 ≠ 0)) := by
  rw [pixels_dirty]
  split
  · next haligned => simp [isDirty_or_page, hq, haligned]
  · next hsplit => simp [isDirty_or_page, hq, hsplit, Bool.or_assoc]

/-- The pages of `PixCells(x, y)` (R142). -/
theorem pixCells_any_page (x y q : Nat) :
    ((pixCells x y).any fun cell => cell.1 == q) = decide (q = y / 8 ∨ q = y / 8 + 1 ∧ y % 8 ≠ 0) := by
  unfold pixCells
  split
  · next haligned => simp [haligned, beq_eq_decide, eq_comm]
  · next hsplit => simp [hsplit, beq_eq_decide, eq_comm]

/-! ### `Plot` (R140) -/

theorem getLsbD_fbRead_plot {X c : Nat} (Y : Nat) (s : State) (p : Nat) {b : Nat} (hX : X < 128) (hc : c < 128) :
    (fbRead (plot X Y s) p c).getLsbD b =
      ((fbRead s p c).getLsbD b || decide (p = Y / 8 ∧ c = X ∧ b = Y % 8)) := by
  have hrow : Y % 8 < 8 := Nat.mod_lt Y (by decide)
  rw [fbRead_plot X Y s p c hX hc]
  by_cases hcell : p = Y / 8 ∧ c = X
  · obtain ⟨rfl, rfl⟩ := hcell
    rw [if_pos ⟨rfl, rfl⟩, BitVec.getLsbD_or, getLsbD_one_shiftLeft]
    simp [hrow, eq_comm]
  · have hother : ¬ (p = Y / 8 ∧ c = X ∧ b = Y % 8) := fun ⟨hp, hcol, _⟩ => hcell ⟨hp, hcol⟩
    simp [hcell, hother]

/-- Settles O23: the pixel by `getLsbD_fbRead_plot`, the dirty bit, and the frame. -/
theorem plotSetsOnePixel : Obligations.PlotSetsOnePixel := fun X Y s hX _ =>
  ⟨fun p _ _ hc _ _ => getLsbD_fbRead_plot Y s p hX hc,
    fun _ hq => by rw [plot_dirty, isDirty_or_page _ _ hq],
    plot_onlyDrawn X Y s⟩

/-! ### `Pixels` (R142) -/

/-- At an aligned row the slice is one cell, and its rows are that cell's page. -/
theorem getLsbD_fbRead_pixels_of_aligned {x y c b : Nat} (v : Byte) (s : State) (p : Nat) (hx : x < 128) (hc : c < 128)
    (hb : b < 8) (haligned : y % 8 = 0) :
    (fbRead (pixels x y v s) p c).getLsbD b =
      if c = x ∧ y ≤ 8 * p + b ∧ 8 * p + b < y + 8 then v.getLsbD (8 * p + b - y)
      else (fbRead s p c).getLsbD b := by
  have hrows : (y ≤ 8 * p + b ∧ 8 * p + b < y + 8) ↔ p = y / 8 := by omega
  simp only [fbRead_pixels x y v s p c hx hc, haligned, hrows, if_true, ne_eq, not_true_eq_false, and_false, if_false]
  by_cases hcell : c = x ∧ p = y / 8
  · have hindex : 8 * p + b - y = b := by omega
    rw [if_pos hcell, if_pos hcell, hindex]
  · rw [if_neg hcell, if_neg hcell]

/-- At an unaligned row the slice's rows lie in two pages, each ORed with its part. -/
theorem getLsbD_fbRead_pixels_of_unaligned {x y c b : Nat} (v : Byte) (s : State) (p : Nat) (hx : x < 128) (hc : c < 128)
    (hb : b < 8) (hsplit : y % 8 ≠ 0) :
    (fbRead (pixels x y v s) p c).getLsbD b =
      if c = x ∧ y ≤ 8 * p + b ∧ 8 * p + b < y + 8 then (fbRead s p c).getLsbD b || v.getLsbD (8 * p + b - y)
      else (fbRead s p c).getLsbD b := by
  rw [fbRead_pixels x y v s p c hx hc]
  by_cases hcol : c = x
  · by_cases hupper : p = y / 8
    · subst hupper
      have hlast : 8 * (y / 8) + b < y + 8 := by omega
      rw [if_pos ⟨hcol, rfl⟩, if_neg hsplit, BitVec.getLsbD_or, getLsbD_slice_upper v y hb]
      by_cases hfirst : y ≤ 8 * (y / 8) + b <;> simp [hcol, hfirst, hlast]
    · by_cases hlower : p = y / 8 + 1
      · subst hlower
        have hfirst : y ≤ 8 * (y / 8 + 1) + b := by omega
        rw [if_neg (fun h => hupper h.2), if_pos ⟨hcol, rfl, hsplit⟩, BitVec.getLsbD_or, getLsbD_slice_lower]
        by_cases hlast : 8 * (y / 8 + 1) + b < y + 8
        · rw [if_pos ⟨hcol, hfirst, hlast⟩]
        · rw [if_neg (fun h => hlast h.2.2), BitVec.getLsbD_of_ge v _ (by omega), Bool.or_false]
      · have hrows : ¬ (y ≤ 8 * p + b ∧ 8 * p + b < y + 8) := by omega
        simp [hupper, hlower, hrows]
  · simp [hcol]

/-- Settles O24: the pixels at an aligned and at an unaligned row, the dirty bits, and the frame. -/
theorem pixelsWritesOneSlice : Obligations.PixelsWritesOneSlice := by
  intro x y v s hcells
  have hx : x < 128 := (hcells (y / 8, x) (by unfold pixCells; split <;> simp)).2
  refine ⟨fun p _ c hc b hb => ?_, fun q hq => ?_, pixels_onlyDrawn x y v s⟩
  · by_cases haligned : y % 8 = 0
    · simp only [haligned, if_true, getLsbD_fbRead_pixels_of_aligned v s p hx hc hb haligned]
    · simp only [haligned, if_false, getLsbD_fbRead_pixels_of_unaligned v s p hx hc hb haligned]
  · rw [isDirty_pixels x y v s hq, pixCells_any_page]

/-! ### `DRAW_PIXEL` (R141) -/

theorem pixelInRange_iff (X Y : Nat) : pixelInRange X Y = true ↔ X < 128 ∧ Y < 64 := by
  rw [pixelInRange, Bool.and_eq_true, decide_eq_true_iff, decide_eq_true_iff]

/-- `DRAW_PIXEL` plots the raw coordinate, or refuses it. -/
theorem exec_drawPixel (x y : Byte) (s : State) :
    exec (.drawPixel x y) s =
      .next
        (if x.toNat + s.params.originX.toNat < 128 ∧ y.toNat + s.params.originY.toNat < 64 then
          plot (x.toNat + s.params.originX.toNat) (y.toNat + s.params.originY.toNat) s
        else raise .coordRange (Instr.drawPixel x y).header s) := by
  simp only [exec, execDrawPixel, pixelInRange_iff, rawX, rawY]

/-- Settles O27: the words, the plot at the raw coordinate, and the fault of a coordinate outside the buffer. -/
theorem drawPixelRule : Obligations.DrawPixelRule := by
  refine ⟨fun w hop => decode_drawPixel hop, fun x y s hX hY => ?_, fun x y s hout => ?_⟩
  · refine ⟨_, by rw [exec_drawPixel, if_pos ⟨hX, hY⟩], plot_onlyDrawn _ _ s, plot_dirty _ _ s, fun p _ c hc => ?_⟩
    simp only [fbRead_plot _ _ s p c hX hc, and_comm]
  · exact ⟨_, by rw [exec_drawPixel, if_neg (by omega)], raise_faultEntered _ _ s⟩

/-! ### `DRAW_PIXELS` (R143) -/

/-- One slice is written, or refused as a whole. -/
theorem drawSlices_singleton (h : Word) (sl : Slice) (s : State) :
    drawSlices h [sl] s = if sliceInRange sl then pixels sl.x sl.y sl.v s else raise .coordRange h s := by
  simp [drawSlices, drawSlice]

/-- A slice is in range when its top row is in the buffer and, unaligned, is not on the last page (R251). -/
theorem sliceInRange_iff_rows (x y : Nat) (v : Byte) :
    sliceInRange { x := x, y := y, v := v } = true ↔ x < 128 ∧ y < 64 ∧ ¬ (y % 8 ≠ 0 ∧ y / 8 = 7) := by
  rw [sliceInRange_iff]
  dsimp only
  split <;> omega

/-- `DRAW_PIXELS` writes its slice at the raw coordinate, or refuses it. -/
theorem exec_drawPixels (x y v : Byte) (s : State) :
    exec (.drawPixels x y v) s =
      .next
        (if x.toNat < 128 ∧ y.toNat < 64 ∧ ¬ (y.toNat % 8 ≠ 0 ∧ y.toNat / 8 = 7) then pixels x.toNat y.toNat v s
        else raise .coordRange (Instr.drawPixels x y v).header s) := by
  simp only [exec, execDrawPixels, drawSlices_singleton, sliceInRange_iff_rows]

/-- Settles O28: the words, the slice at the raw coordinate, and the fault of a slice outside the buffer. -/
theorem drawPixelsRule : Obligations.DrawPixelsRule := by
  refine ⟨fun w hop => decode_drawPixels hop, fun x y v s hx hy hpage => ?_, fun x y v s hout => ?_⟩
  · exact ⟨_, by rw [exec_drawPixels, if_pos ⟨hx, hy, hpage⟩], pixels_onlyDrawn _ _ v s,
      fun q hq => isDirty_pixels _ _ v s hq, fun p _ c hc => fbRead_pixels _ _ v s p c hx hc⟩
  · exact ⟨_, by rw [exec_drawPixels, if_neg (by omega)], raise_faultEntered _ _ s⟩

end Machine

end Sys2Proof
end

section
/-! Proofs about text and numbers (41_raster_text.md): a list of slices in adjacent columns of one row, the text that such a
list draws, the digits of a number field (R164), and the commands `DRAW_CHAR` (R160), `DRAW_STRING` (R162) and `DRAW_NUMBER`
(R165) with their words. -/

namespace Sys2Proof

/-! ### Commands with payload words known from the header (R104, R109) -/

/-- A header that passes its checks hands its payload on; the image alone asks for a height word first. -/
theorem decode_of_checkHeader_ok {w : Word} {op : Opcode} (words : List Word) (hc : checkHeader w = .ok op)
    (himage : op ≠ .showImage) : decode (w :: words) = decodePayload op w none (headerNeed op w) words := by
  cases op with
  | showImage => exact absurd rfl himage
  | _ => simp only [decode, hc]

theorem decode_of_checkHeader_error {w : Word} {e : WordError} (words : List Word) (hc : checkHeader w = .error e) :
    decode (w :: words) = .error (.badWord e) := by
  simp only [decode, hc]

/-- A header and exactly the payload words it asks for are refused for the header's reserved bits or are the command. -/
theorem decode_header_payload {w : Word} {words : List Word} {op : Opcode} {i : Instr} (hop : opField w = op.toBits)
    (himage : op ≠ .showImage) (hneed : headerNeed op w = words.length) (hinstr : instrOf op w none words = some i) :
    decode (w :: words) =
      if w &&& op.rsvMask = 0#32 then .ok (i, []) else .error (.badWord .reservedBits) := by
  by_cases hmask : w &&& op.rsvMask = 0#32
  · rw [decode_of_checkHeader_ok words (by rw [checkHeader_of_opField hop, if_pos hmask]) himage, if_pos hmask]
    simp [decodePayload, hneed, hinstr]
  · rw [decode_of_checkHeader_error words (checkHeader_eq_reservedBits hop hmask), if_neg hmask]

/-- The reserved bits of the text commands are bits 27 to 24. -/
theorem and_rsv_eq_zero_iff (w : Word) : w &&& 0x0F000000#32 = 0#32 ↔ w.extractLsb' 24 4 = 0#4 :=
  and_ones_shiftLeft_eq_zero_iff w (show 24 + 4 ≤ 32 by decide)

theorem decode_drawChar {w : Word} (hop : opField w = 0x3#4) :
    decode [w] =
      if w.extractLsb' 24 4 = 0#4 then .ok (.drawChar (fieldA w) (fieldB w) (fieldC w), [])
      else .error (.badWord .reservedBits) := by
  rw [decode_header_payload (op := .drawChar) hop (by decide) rfl rfl]
  simp only [Opcode.rsvMask, and_rsv_eq_zero_iff]

theorem decode_drawString {w : Word} {words : List Word} (hop : opField w = 0x4#4)
    (hlen : words.length = payloadNeed (fieldC w).toNat) :
    decode (w :: words) =
      if w.extractLsb' 24 4 = 0#4 then
        .ok (.drawString (fieldA w) (fieldB w) ((payloadBytes words).take (fieldC w).toNat), [])
      else .error (.badWord .reservedBits) := by
  rw [decode_header_payload (op := .drawString) hop (by decide) hlen.symm rfl]
  simp only [Opcode.rsvMask, and_rsv_eq_zero_iff]

theorem decode_drawNumber {w : Word} (n : Word) (hop : opField w = 0x5#4) :
    decode [w, n] =
      if w.extractLsb' 24 4 = 0#4 then .ok (.drawNumber (fieldA w) (fieldB w) n (fieldC w), [])
      else .error (.badWord .reservedBits) := by
  rw [decode_header_payload (op := .drawNumber) hop (by decide) rfl rfl]
  simp only [Opcode.rsvMask, and_rsv_eq_zero_iff]

namespace Machine

/-! ### Slices in adjacent columns (R142) -/

/-- `n` slices side by side from raw `(x, y)` on, the one in column `x + k` with the data `v k`. -/
def columnSlices (x y : Nat) (v : Nat → Byte) (n : Nat) : List Slice :=
  (List.range n).map fun k => { x := x + k, y := y, v := v k }

/-- What a slice at row `y` with the data `v` makes of the byte `old` in page `p` of its column. -/
def sliceByte (y : Nat) (v : Byte) (p : Nat) (old : Byte) : Byte :=
  if p = y / 8 then (if y % 8 = 0 then v else old ||| (v <<< (y % 8)))
  else if p = y / 8 + 1 ∧ y % 8 ≠ 0 then old ||| (v >>> (8 - y % 8))
  else old

theorem foldl_columnSlices_succ (x y : Nat) (v : Nat → Byte) (n : Nat) (s : State) :
    (columnSlices x y v (n + 1)).foldl drawSlice s =
      pixels (x + n) y (v n) ((columnSlices x y v n).foldl drawSlice s) := by
  simp [columnSlices, List.range_succ, drawSlice]

theorem fbRead_pixels_eq_sliceByte (x y : Nat) (v : Byte) (s : State) (p c : Nat) (hx : x < 128) (hc : c < 128) :
    fbRead (pixels x y v s) p c = if c = x then sliceByte y v p (fbRead s p c) else fbRead s p c := by
  rw [fbRead_pixels x y v s p c hx hc]
  by_cases hcol : c = x
  · simp only [hcol, true_and, if_true, sliceByte]
  · simp only [hcol, false_and, if_false]

/-- Each column of the drawing gets its own slice, once. -/
theorem fbRead_foldl_columnSlices {x n c : Nat} (y : Nat) (v : Nat → Byte) (s : State) (p : Nat) (hx : x + n ≤ 128)
    (hc : c < 128) :
    fbRead ((columnSlices x y v n).foldl drawSlice s) p c =
      if x ≤ c ∧ c < x + n then sliceByte y (v (c - x)) p (fbRead s p c) else fbRead s p c := by
  induction n with
  | zero => rw [if_neg (by omega)]; rfl
  | succ n ih =>
    rw [foldl_columnSlices_succ, fbRead_pixels_eq_sliceByte _ y _ _ p c (by omega) hc, ih (by omega)]
    by_cases hlast : c = x + n
    · have hindex : c - x = n := by omega
      rw [if_pos hlast, if_neg (by omega), if_pos (by omega), hindex]
    · have hbefore : (x ≤ c ∧ c < x + (n + 1)) ↔ (x ≤ c ∧ c < x + n) := by omega
      simp only [if_neg hlast, hbefore]

/-- One slice or more marks the one or two pages of the row (R144). -/
theorem isDirty_foldl_columnSlices (x y : Nat) (v : Nat → Byte) (n : Nat) (s : State) {q : Nat} (hq : q < 8) :
    isDirty ((columnSlices x y v n).foldl drawSlice s).dirty q =
      (isDirty s.dirty q || decide (n ≠ 0 ∧ (q = y / 8 ∨ q = y / 8 + 1 ∧ y % 8 ≠ 0))) := by
  induction n with
  | zero => simp [columnSlices]
  | succ n ih =>
    rw [foldl_columnSlices_succ, isDirty_pixels _ _ _ _ hq, ih]
    by_cases hpage : q = y / 8 ∨ q = y / 8 + 1 ∧ y % 8 ≠ 0 <;> simp [hpage]

/-- The last column decides the columns' check, and row 56 is the last whose slice ends inside the buffer (R251). -/
theorem all_sliceInRange_columnSlices_iff (x y : Nat) (v : Nat → Byte) (n : Nat) :
    (columnSlices x y v n).all sliceInRange = true ↔ n = 0 ∨ x + n ≤ 128 ∧ y ≤ 56 := by
  simp only [columnSlices, List.all_map, List.all_eq_true, List.mem_range, Function.comp_apply, sliceInRange_iff_rows]
  constructor
  · intro hall
    by_cases hzero : n = 0
    · exact .inl hzero
    · have hlast := hall (n - 1) (by omega)
      omega
  · intro hfits k hk
    omega

/-! ### Text (R160, R162) -/

/-- The data of column `k` of a text: byte `k mod 6` of the glyph of character `k div 6` (R162). -/
def textByte (params : Params) (chars : List Byte) (k : Nat) : Byte :=
  glyphByte params (chars.getD (k / 6) 0) (k % 6)

/-- A character more leaves the columns of the text before it. -/
theorem textByte_append_of_lt (params : Params) (chars : List Byte) (c : Byte) {k : Nat} (hk : k < 6 * chars.length) :
    textByte params (chars ++ [c]) k = textByte params chars k := by
  rw [textByte, textByte, List.getD_append _ _ _ _ (by omega)]

/-- The six columns after a text are those of the character added to it. -/
theorem textByte_append_add (params : Params) (chars : List Byte) (c : Byte) {k : Nat} (hk : k < 6) :
    textByte params (chars ++ [c]) (6 * chars.length + k) = glyphByte params c k := by
  have hchar : (6 * chars.length + k) / 6 = chars.length := by omega
  have hcolumn : (6 * chars.length + k) % 6 = k := by omega
  rw [textByte, hchar, hcolumn]
  simp

/-- The slices of a text lie side by side, six columns a character. -/
theorem textSlices_eq_columnSlices (params : Params) (x y : Nat) (chars : List Byte) :
    textSlices params x y chars = columnSlices x y (textByte params chars) (6 * chars.length) := by
  induction chars using List.reverseRecOn with
  | nil => rfl
  | append_singleton chars c ih =>
    have hlast : textSlices params x y (chars ++ [c]) =
        textSlices params x y chars ++ glyphSlices params (x + 6 * chars.length) y c := by
      simp [textSlices, List.zipIdx_append]
    have hlen : 6 * (chars ++ [c]).length = 6 * chars.length + 6 := by simp [Nat.mul_add]
    rw [hlast, ih, hlen, columnSlices, columnSlices, List.range_add, List.map_append, List.map_map, glyphSlices]
    congr 1
    · refine List.map_congr_left fun k hk => ?_
      rw [textByte_append_of_lt params chars c (List.mem_range.mp hk)]
    · refine List.map_congr_left fun k hk => ?_
      rw [Function.comp_apply, textByte_append_add params chars c (List.mem_range.mp hk), Nat.add_assoc]

/-- A text is in range when it is empty or its last glyph is: the check does not ask which characters it has. -/
theorem all_sliceInRange_textSlices_iff (params : Params) (x y : Nat) (chars : List Byte) :
    (textSlices params x y chars).all sliceInRange = true ↔ chars = [] ∨ x + 6 * chars.length ≤ 128 ∧ y ≤ 56 := by
  rw [textSlices_eq_columnSlices, all_sliceInRange_columnSlices_iff, ← List.length_eq_zero_iff]
  omega

/-- The slices of a text that fits draw that text. -/
theorem foldl_textSlices_textDrawn {x : Nat} (y : Nat) {chars : List Byte} (s : State)
    (hfits : chars = [] ∨ x + 6 * chars.length ≤ 128) :
    TextDrawn s ((textSlices s.params x y chars).foldl drawSlice s) x y chars := by
  obtain rfl | hx := hfits
  · exact ⟨fun p _ c _ => (if_neg (by rw [List.length_nil]; omega)).symm, fun q _ => by simp [textSlices]⟩
  · rw [textSlices_eq_columnSlices]
    refine ⟨fun p _ c hc => fbRead_foldl_columnSlices y _ s p hx hc, fun q hq => ?_⟩
    rw [isDirty_foldl_columnSlices _ _ _ _ s hq]
    simp

/-- The slices of a text that fits pass the check and draw that text and nothing else. -/
theorem drawSlices_textSlices_of_fits (h : Word) {x y : Nat} {chars : List Byte} (s : State)
    (hfits : chars = [] ∨ x + 6 * chars.length ≤ 128 ∧ y ≤ 56) :
    OnlyDrawn s (drawSlices h (textSlices s.params x y chars) s) ∧
      TextDrawn s (drawSlices h (textSlices s.params x y chars) s) x y chars := by
  rw [drawSlices, if_pos ((all_sliceInRange_textSlices_iff _ x y chars).mpr hfits)]
  exact ⟨foldl_drawSlice_onlyDrawn _ s, foldl_textSlices_textDrawn y s (hfits.imp_right And.left)⟩

/-- A text that does not fit is refused as a whole. -/
theorem drawSlices_textSlices_of_outside (h : Word) {x y : Nat} {chars : List Byte} (s : State) (hne : chars ≠ [])
    (hout : 128 < x + 6 * chars.length ∨ 56 < y) :
    FaultEntered .coordRange h s (drawSlices h (textSlices s.params x y chars) s) := by
  have hcheck : ¬ (textSlices s.params x y chars).all sliceInRange = true := by
    rw [all_sliceInRange_textSlices_iff]
    rintro (hnil | hfits)
    · exact hne hnil
    · omega
  rw [drawSlices, if_neg hcheck]
  exact raise_faultEntered _ h s

theorem charInRange_iff (params : Params) (c : Byte) :
    charInRange params c = true ↔ 0x20 ≤ c.toNat ∧ c.toNat ≤ params.glyphLast.toNat := by
  rw [charInRange, Bool.and_eq_true, decide_eq_true_iff, decide_eq_true_iff]

/-- With every character in the table only the coordinates' check is left. -/
theorem drawText_of_chars (h : Word) (x y : Nat) {chars : List Byte} {s : State}
    (hchars : ∀ c ∈ chars, 0x20 ≤ c.toNat ∧ c.toNat ≤ s.params.glyphLast.toNat) :
    drawText h x y chars s = drawSlices h (textSlices s.params x y chars) s :=
  if_pos (List.all_eq_true.mpr fun c hc => (charInRange_iff s.params c).mpr (hchars c hc))

/-- A text of characters of the table that fits is drawn. -/
theorem drawText_of_fits (h : Word) {x y : Nat} {chars : List Byte} {s : State}
    (hchars : ∀ c ∈ chars, 0x20 ≤ c.toNat ∧ c.toNat ≤ s.params.glyphLast.toNat)
    (hfits : chars = [] ∨ x + 6 * chars.length ≤ 128 ∧ y ≤ 56) :
    OnlyDrawn s (drawText h x y chars s) ∧ TextDrawn s (drawText h x y chars s) x y chars := by
  rw [drawText_of_chars h x y hchars]
  exact drawSlices_textSlices_of_fits h s hfits

/-- A text of characters of the table that does not fit is refused for its place. -/
theorem drawText_of_outside (h : Word) {x y : Nat} {chars : List Byte} {s : State}
    (hchars : ∀ c ∈ chars, 0x20 ≤ c.toNat ∧ c.toNat ≤ s.params.glyphLast.toNat) (hne : chars ≠ [])
    (hout : 128 < x + 6 * chars.length ∨ 56 < y) :
    FaultEntered .coordRange h s (drawText h x y chars s) := by
  rw [drawText_of_chars h x y hchars]
  exact drawSlices_textSlices_of_outside h s hne hout

/-- A character outside the table is refused before the coordinates are asked (R259). -/
theorem drawText_of_char_outside (h : Word) (x y : Nat) {chars : List Byte} {s : State}
    (hout : ∃ c ∈ chars, c.toNat < 0x20 ∨ s.params.glyphLast.toNat < c.toNat) :
    FaultEntered .charRange h s (drawText h x y chars s) := by
  obtain ⟨c, hmem, hc⟩ := hout
  have hcheck : ¬ chars.all (charInRange s.params) = true := fun hall => by
    have hin := (charInRange_iff s.params c).mp (List.all_eq_true.mp hall c hmem)
    omega
  rw [drawText, if_neg hcheck]
  exact raise_faultEntered _ h s

/-! ### `DRAW_CHAR` (R160) -/

theorem exec_drawChar (x y c : Byte) (s : State) :
    exec (.drawChar x y c) s = .next (drawText (Instr.drawChar x y c).header x.toNat y.toNat [c] s) := rfl

/-- Settles O30: the words, and the text of the one character, drawn or refused for its character or its place. -/
theorem drawCharRule : Obligations.DrawCharRule := by
  refine ⟨fun w hop => decode_drawChar hop, fun x y c s hlow hhigh hx hy => ?_, fun x y c s hout => ?_,
    fun x y c s hlow hhigh hout => ?_⟩
  · have hfits : x.toNat + 6 * [c].length ≤ 128 := by rw [List.length_singleton]; omega
    exact ⟨_, exec_drawChar x y c s, drawText_of_fits _ (by simp [hlow, hhigh]) (.inr ⟨hfits, hy⟩)⟩
  · exact ⟨_, exec_drawChar x y c s, drawText_of_char_outside _ _ _ ⟨c, List.mem_singleton_self c, hout⟩⟩
  · have houtside : 128 < x.toNat + 6 * [c].length ∨ 56 < y.toNat := by rw [List.length_singleton]; omega
    exact ⟨_, exec_drawChar x y c s, drawText_of_outside _ (by simp [hlow, hhigh]) (List.cons_ne_nil c []) houtside⟩

/-! ### `DRAW_STRING` (R162) -/

theorem exec_drawString (x y : Byte) (text : List Byte) (s : State) :
    exec (.drawString x y text) s =
      .next (drawText (Instr.drawString x y text).header x.toNat y.toNat text s) := rfl

/-- The empty string passes both checks at any coordinates and writes nothing. -/
theorem exec_drawString_nil (x y : Byte) (s : State) : exec (.drawString x y []) s = .next s := rfl

/-- Settles O31: the words, and the text drawn, empty, or refused for a character or its place. -/
theorem drawStringRule : Obligations.DrawStringRule :=
  ⟨fun _ _ hop hlen => decode_drawString hop hlen,
    fun x y text s hchars hfits => ⟨_, exec_drawString x y text s, drawText_of_fits _ hchars hfits⟩,
    exec_drawString_nil,
    fun x y text s hout => ⟨_, exec_drawString x y text s, drawText_of_char_outside _ _ _ hout⟩,
    fun x y text s hchars hne hout => ⟨_, exec_drawString x y text s, drawText_of_outside _ hchars hne hout⟩⟩

/-! ### The digits of a number field (R164) -/

/-- A digit left of the last one is a digit of the quotient by 10, in a field one character shorter. -/
theorem digit_succ_of_lt (n : Nat) {digits i : Nat} (hi : i < digits) :
    digit n (digits + 1) i = digit (n / 10) digits i := by
  have hpow : digits + 1 - 1 - i = (digits - 1 - i) + 1 := by omega
  rw [digit, digit, hpow, Nat.pow_succ', Nat.div_div_eq_div_mul]

/-- The last digit of a field is the remainder by 10. -/
theorem digit_succ_last (n digits : Nat) : digit n (digits + 1) digits = n % 10 := by
  simp [digit]

/-- Both ways of finding the digits split off the last one and go on with the quotient by 10. -/
theorem map_digit_eq_divisionDigits (n digits : Nat) :
    (List.range digits).map (digit n digits) = divisionDigits n digits := by
  induction digits generalizing n with
  | zero => rfl
  | succ digits ih =>
    have hbefore : (List.range digits).map (digit n (digits + 1)) = (List.range digits).map (digit (n / 10) digits) :=
      List.map_congr_left fun i hi => digit_succ_of_lt n (List.mem_range.mp hi)
    calc (List.range (digits + 1)).map (digit n (digits + 1))
      _ = (List.range digits).map (digit n (digits + 1)) ++ [digit n (digits + 1) digits] := by
        rw [List.range_succ, List.map_append, List.map_singleton]
      _ = divisionDigits (n / 10) digits ++ [n % 10] := by rw [hbefore, ih, digit_succ_last]

/-- The characters drawn are `0x30` plus the digits of repeated division. -/
theorem numberChars_eq_map_divisionDigits (n digits : Nat) :
    numberChars n digits = (divisionDigits n digits).map fun d => BitVec.ofNat 8 (0x30 + d) := by
  rw [← map_digit_eq_divisionDigits, List.map_map]
  rfl

/-- Settles O32: `digit` written out, and the characters made of the digits. -/
theorem digitsByRepeatedDivision : Obligations.DigitsByRepeatedDivision := fun n digits =>
  ⟨map_digit_eq_divisionDigits n digits, numberChars_eq_map_divisionDigits n digits⟩

/-! ### `DRAW_NUMBER` (R165) -/

@[simp] theorem length_numberChars (n digits : Nat) : (numberChars n digits).length = digits := by
  simp [numberChars]

theorem numberChars_eq_nil_iff (n : Nat) (digits : Byte) : numberChars n digits.toNat = [] ↔ digits = 0 := by
  rw [← List.length_eq_zero_iff, length_numberChars, BitVec.toNat_eq]
  rfl

theorem exec_drawNumber (x y : Byte) (n : Word) (digits : Byte) (s : State) :
    exec (.drawNumber x y n digits) s =
      .next
        (drawSlices (Instr.drawNumber x y n digits).header
          (textSlices s.params x.toNat y.toNat (numberChars n.toNat digits.toNat)) s) := rfl

/-- A field of no digits passes the check at any coordinates and writes nothing. -/
theorem exec_drawNumber_zero (x y : Byte) (n : Word) (s : State) : exec (.drawNumber x y n 0) s = .next s := rfl

/-- Settles O33: the words, and the text of the field's digits, drawn, empty, or refused for its place. -/
theorem drawNumberRule : Obligations.DrawNumberRule := by
  refine ⟨fun w n hop => decode_drawNumber n hop, fun x y n digits s hfits => ?_, exec_drawNumber_zero,
    fun x y n digits s hne hout => ?_⟩
  · refine ⟨_, exec_drawNumber x y n digits s, drawSlices_textSlices_of_fits _ s ?_⟩
    rw [numberChars_eq_nil_iff, length_numberChars]
    exact hfits
  · refine ⟨_, exec_drawNumber x y n digits s, drawSlices_textSlices_of_outside _ s ?_ ?_⟩
    · exact mt (numberChars_eq_nil_iff _ digits).mp hne
    · rwa [length_numberChars]

end Machine

end Sys2Proof
end

section
/-! Proofs about images and clearing (42_raster_image_clear.md): the commands `SHOW_IMAGE` (R180), drawn strip by strip,
`CLEAR_DATA` (R184) and `CLEAR_SCREEN` (R186), both through the pages they zero, with their words. -/

namespace Sys2Proof

/-! ### Commands of one word with every bit fixed (R101, R104) -/

/-- The bits below `OP` are all reserved exactly when the word is `OP` and zeros. -/
theorem and_below_op_eq_zero_iff {w : Word} {op : BitVec 4} (hop : opField w = op) :
    w &&& 0x0FFFFFFF#32 = 0#32 ↔ w = op ++ 0#28 := by
  have hsplit : w.extractLsb' 28 4 ++ w.extractLsb' 0 28 = w := BitVec.extractLsb'_append_extractLsb'
  subst hop
  calc w &&& 0x0FFFFFFF#32 = 0#32
    _ ↔ w.extractLsb' 0 28 = 0#28 := and_ones_shiftLeft_eq_zero_iff w (show 0 + 28 ≤ 32 by decide)
    _ ↔ w.extractLsb' 28 4 ++ w.extractLsb' 0 28 = opField w ++ 0#28 := (BitVec.append_right_inj _).symm
    _ ↔ w = opField w ++ 0#28 := by rw [hsplit]

/-- The one word of a command without operands is fixed by its opcode. -/
theorem decode_without_operands {w : Word} {op : Opcode} {i : Instr} (hop : opField w = op.toBits)
    (hmask : op.rsvMask = 0x0FFFFFFF#32) (himage : op ≠ .showImage) (hneed : headerNeed op w = 0)
    (hinstr : instrOf op w none [] = some i) :
    decode [w] = if w = op.toBits ++ 0#28 then .ok (i, []) else .error (.badWord .reservedBits) := by
  rw [decode_header_only hop himage hneed hinstr, hmask]
  simp only [and_below_op_eq_zero_iff hop]

theorem decode_clearData {w : Word} (hop : opField w = 0x7#4) :
    decode [w] = if w = 0x70000000#32 then .ok (.clearData, []) else .error (.badWord .reservedBits) :=
  decode_without_operands (op := .clearData) hop rfl (by decide) rfl rfl

theorem decode_clearScreen {w : Word} (hop : opField w = 0x8#4) :
    decode [w] = if w = 0x80000000#32 then .ok (.clearScreen, []) else .error (.badWord .reservedBits) :=
  decode_without_operands (op := .clearScreen) hop rfl (by decide) rfl rfl

/-! ### The words of an image (R103, R120) -/

/-- A height word whose reserved bits are 0 is its low byte. -/
theorem toNat_extractLsb'_low_byte {w : Word} (hw : w.extractLsb' 8 24 = 0#24) :
    (w.extractLsb' 0 8).toNat = w.toNat := by
  have hhigh := congrArg BitVec.toNat hw
  rw [BitVec.extractLsb'_toNat, Nat.shiftRight_eq_div_pow, BitVec.toNat_ofNat] at hhigh
  rw [BitVec.extractLsb'_toNat, Nat.shiftRight_zero]
  omega

theorem checkHeight_eq_imageHeight {w : Word} (hw : w.extractLsb' 8 24 = 0#24) (h8 : w.toNat % 8 ≠ 0) :
    checkHeight w = .error .imageHeight := by
  rw [checkHeight, if_pos hw, if_neg (by rwa [toNat_extractLsb'_low_byte hw])]

theorem checkHeight_eq_ok {w : Word} (hw : w.extractLsb' 8 24 = 0#24) (h8 : w.toNat % 8 = 0) :
    checkHeight w = .ok (w.extractLsb' 0 8) := by
  rw [checkHeight, if_pos hw, if_pos (by rwa [toNat_extractLsb'_low_byte hw])]

theorem checkHeader_showImage {w : Word} (hop : opField w = 0x6#4) (hrsv : w.extractLsb' 24 4 = 0#4) :
    checkHeader w = .ok .showImage := by
  rw [checkHeader_of_opField (op := .showImage) hop]
  exact if_pos ((and_rsv_eq_zero_iff w).mpr hrsv)

theorem decode_showImage_of_checkHeight_error {w hw : Word} {e : WordError} (words : List Word)
    (hc : checkHeader w = .ok .showImage) (he : checkHeight hw = .error e) :
    decode (w :: hw :: words) = .error (.badWord e) := by
  simp only [decode, hc, he]

/-- A header, a height and exactly the payload words they ask for are the image. -/
theorem decode_showImage_of_checkHeight_ok {w hw : Word} {height : Byte} {words : List Word}
    (hc : checkHeader w = .ok .showImage) (hh : checkHeight hw = .ok height)
    (hlen : words.length = imageNeed w height) :
    decode (w :: hw :: words) =
      .ok (.showImage (fieldA w) (fieldB w) (fieldC w) height
        ((payloadBytes words).take (imageBytes (fieldC w) height)), []) := by
  simp only [decode, hc, hh, decodePayload, ← hlen, Nat.lt_irrefl, if_false, List.take_length, List.drop_length, instrOf]

/-- A reserved bit of the header is refused before the height word is asked (R258). -/
theorem decode_showImage_of_reserved {w hw : Word} (words : List Word) (hop : opField w = 0x6#4)
    (hrsv : w.extractLsb' 24 4 ≠ 0#4 ∨ hw.extractLsb' 8 24 ≠ 0#24) :
    decode (w :: hw :: words) = .error (.badWord .reservedBits) := by
  by_cases hheader : w.extractLsb' 24 4 = 0#4
  · exact decode_showImage_of_checkHeight_error words (checkHeader_showImage hop hheader)
      (checkHeight_eq_reservedBits (hrsv.resolve_left (not_not_intro hheader)))
  · exact decode_of_checkHeader_error _
      (checkHeader_eq_reservedBits (op := .showImage) hop (mt (and_rsv_eq_zero_iff w).mp hheader))

namespace Machine

/-! ### The strips of an image (R180) -/

/-- The data of column `col` in strip-row `r`: strips are stored row by row. -/
def stripByte (width : Nat) (data : List Byte) (r col : Nat) : Byte := data.getD (r * width + col) 0

/-- Byte `p - first` of a column of `rows` bytes that starts at page `first`, and `other` in every other page. -/
def pageColumn (first rows : Nat) (byte : Nat → Byte) (p : Nat) (other : Byte) : Byte :=
  if first ≤ p ∧ p < first + rows then byte (p - first) else other

theorem pageColumn_of_end_le {first rows p : Nat} (byte : Nat → Byte) (other : Byte) (hp : first + rows ≤ p) :
    pageColumn first rows byte p other = other :=
  if_neg (by omega)

/-- A column one byte longer has that byte in the page after its last one. -/
theorem pageColumn_succ (first rows : Nat) (byte : Nat → Byte) (p : Nat) (other : Byte) :
    pageColumn first (rows + 1) byte p other =
      if p = first + rows then byte rows else pageColumn first rows byte p other := by
  unfold pageColumn
  by_cases hlast : p = first + rows
  · have hindex : p - first = rows := by omega
    rw [if_pos (by omega), if_pos hlast, hindex]
  · have hpages : (first ≤ p ∧ p < first + (rows + 1)) ↔ (first ≤ p ∧ p < first + rows) := by omega
    simp only [if_neg hlast, hpages]

/-- What `rows` strips from raw row `y` on make of the byte `old` in page `p`, in column `col` of the image: at an unaligned
row each strip has its low part in its own page and its high part in the page below. -/
def imageByte (y width rows : Nat) (data : List Byte) (col p : Nat) (old : Byte) : Byte :=
  if y % 8 = 0 then pageColumn (y / 8) rows (stripByte width data · col) p old
  else
    old |||
      pageColumn (y / 8) rows (stripByte width data · col <<< (y % 8)) p 0 |||
      pageColumn (y / 8 + 1) rows (stripByte width data · col >>> (8 - y % 8)) p 0

theorem imageByte_zero (y width : Nat) (data : List Byte) (col p : Nat) (old : Byte) :
    imageByte y width 0 data col p old = old := by
  have hnone (first : Nat) (byte : Nat → Byte) (other : Byte) : pageColumn first 0 byte p other = other :=
    if_neg (by omega)
  simp [imageByte, hnone]

/-- One strip more overwrites the page below an aligned image, and ORs into the last page and the one below it otherwise. -/
theorem imageByte_succ (y width rows : Nat) (data : List Byte) (col p : Nat) (old : Byte) :
    imageByte y width (rows + 1) data col p old =
      sliceByte (y + 8 * rows) (stripByte width data rows col) p (imageByte y width rows data col p old) := by
  have hdiv : (y + 8 * rows) / 8 = y / 8 + rows := by omega
  have hmod : (y + 8 * rows) % 8 = y % 8 := by omega
  have hbelow : y / 8 + rows + 1 = y / 8 + 1 + rows := by omega
  rw [imageByte, sliceByte, hdiv, hmod, hbelow]
  by_cases haligned : y % 8 = 0
  · simp [imageByte, haligned, pageColumn_succ]
  · simp only [imageByte, haligned, pageColumn_succ, if_false, ne_eq, not_false_eq_true, and_true]
    by_cases hupper : p = y / 8 + rows
    · have hlower : p ≠ y / 8 + 1 + rows := by omega
      simp only [if_pos hupper, if_neg hlower, pageColumn_of_end_le _ _ hupper.ge, BitVec.ofNat_eq_ofNat, BitVec.or_zero]
      ac_rfl
    · by_cases hlower : p = y / 8 + 1 + rows
      · simp only [if_neg hupper, if_pos hlower, pageColumn_of_end_le _ _ hlower.ge, BitVec.ofNat_eq_ofNat, BitVec.or_zero]
      · simp only [if_neg hupper, if_neg hlower]

theorem foldl_imageSlices_succ (x y width rows : Nat) (data : List Byte) (s : State) :
    (imageSlices x y width (rows + 1) data).foldl drawSlice s =
      (columnSlices x (y + 8 * rows) (stripByte width data rows) width).foldl drawSlice
        ((imageSlices x y width rows data).foldl drawSlice s) := by
  rw [imageSlices, List.range_succ, List.flatMap_append, List.foldl_append, List.flatMap_singleton]
  rfl

/-- Each cell of the rectangle gets the strips that meet it, and no other cell changes. -/
theorem fbRead_foldl_imageSlices {x width c : Nat} (y rows : Nat) (data : List Byte) (s : State) (p : Nat)
    (hx : x + width ≤ 128) (hc : c < 128) :
    fbRead ((imageSlices x y width rows data).foldl drawSlice s) p c =
      if x ≤ c ∧ c < x + width then imageByte y width rows data (c - x) p (fbRead s p c) else fbRead s p c := by
  induction rows with
  | zero => rw [imageByte_zero, ite_self]; rfl
  | succ rows ih =>
    rw [foldl_imageSlices_succ, fbRead_foldl_columnSlices _ _ _ p hx hc, ih, imageByte_succ]
    by_cases hcol : x ≤ c ∧ c < x + width
    · simp only [if_pos hcol]
    · simp only [if_neg hcol]

/-- An image that is not empty marks the pages its strips meet (R144). -/
theorem isDirty_foldl_imageSlices (x y width rows : Nat) (data : List Byte) (s : State) {q : Nat} (hq : q < 8) :
    isDirty ((imageSlices x y width rows data).foldl drawSlice s).dirty q =
      (isDirty s.dirty q ||
        decide (0 < width ∧ 0 < rows ∧ (y / 8 ≤ q ∧ q < y / 8 + rows ∨ q = y / 8 + rows ∧ y % 8 ≠ 0))) := by
  induction rows with
  | zero => simp [imageSlices]
  | succ rows ih =>
    rw [foldl_imageSlices_succ, isDirty_foldl_columnSlices _ _ _ _ _ hq, ih, Bool.or_assoc, ← Bool.decide_or]
    congr 2
    rw [eq_iff_iff]
    omega

theorem imageSlices_of_empty {width rows : Nat} (hempty : width = 0 ∨ rows = 0) (x y : Nat) (data : List Byte) :
    imageSlices x y width rows data = [] := by
  obtain rfl | rfl := hempty <;> simp [imageSlices]

/-- The last strip decides the rows' check: it has to end inside the buffer (R251). -/
theorem all_sliceInRange_imageSlices_iff (x y width rows : Nat) (data : List Byte) :
    (imageSlices x y width rows data).all sliceInRange = true ↔
      width = 0 ∨ rows = 0 ∨ x + width ≤ 128 ∧ y + 8 * rows ≤ 64 := by
  have hstrips : (imageSlices x y width rows data).all sliceInRange = true ↔
      ∀ r < rows, width = 0 ∨ x + width ≤ 128 ∧ y + 8 * r ≤ 56 := by
    rw [imageSlices, List.all_flatMap, List.all_eq_true]
    simp only [List.mem_range]
    exact forall₂_congr fun r _ => all_sliceInRange_columnSlices_iff x (y + 8 * r) (stripByte width data r) width
  rw [hstrips]
  constructor
  · intro hall
    by_cases hzero : rows = 0
    · exact .inr (.inl hzero)
    · have hlast := hall (rows - 1) (by omega)
      omega
  · intro hfits r hr
    omega

/-- Strips end inside the buffer when the pages they meet are among the eight. -/
theorem pages_fit_iff (y rows : Nat) :
    (if y % 8 = 0 then y / 8 + rows ≤ 8 else y / 8 + rows ≤ 7) ↔ y + 8 * rows ≤ 64 := by
  split <;> omega

theorem pages_outside_iff (y rows : Nat) :
    (if y % 8 = 0 then 8 < y / 8 + rows else 7 < y / 8 + rows) ↔ 64 < y + 8 * rows := by
  split <;> omega

/-- The strips of an image that is empty or fits draw that image: `imageByte` is the byte `ImageDrawn` asks for. -/
theorem foldl_imageSlices_imageDrawn {x width rows : Nat} (y : Nat) (data : List Byte) (s : State)
    (hfits : width = 0 ∨ rows = 0 ∨ x + width ≤ 128) :
    ImageDrawn s ((imageSlices x y width rows data).foldl drawSlice s) x y width rows data := by
  refine ⟨fun p _ c hc => ?_, fun q hq => isDirty_foldl_imageSlices x y width rows data s hq⟩
  change _ = if x ≤ c ∧ c < x + width then imageByte y width rows data (c - x) p (fbRead s p c) else fbRead s p c
  obtain rfl | rfl | hx := hfits
  · rw [imageSlices_of_empty (.inl rfl), if_neg (by omega)]
    rfl
  · rw [imageSlices_of_empty (.inr rfl), imageByte_zero, ite_self]
    rfl
  · exact fbRead_foldl_imageSlices y rows data s p hx hc

/-! ### `SHOW_IMAGE` (R180) -/

/-- An operand is the literal 0 of the statements when its number is. -/
theorem toNat_eq_zero_iff (b : Byte) : b.toNat = 0 ↔ b = 0 :=
  (BitVec.toNat_eq (y := 0)).symm

/-- The number of strip-rows of a well-formed image is 0 only for the height 0. -/
theorem rows_eq_zero_iff {height : Byte} (h8 : height.toNat % 8 = 0) : height.toNat / 8 = 0 ↔ height = 0 := by
  rw [← toNat_eq_zero_iff]
  omega

theorem height_of_wf {x y width height : Byte} {data : List Byte}
    (hwf : (Instr.showImage x y width height data).wf = true) : height.toNat % 8 = 0 := by
  rw [Instr.wf, Bool.and_eq_true, decide_eq_true_iff] at hwf
  obtain ⟨h8, -⟩ := hwf
  exact h8

/-- With a height that is a multiple of 8 only the coordinates' check is left. -/
theorem exec_showImage {height : Byte} (h8 : height.toNat % 8 = 0) (x y width : Byte) (data : List Byte) (s : State) :
    exec (.showImage x y width height data) s =
      .next
        (drawSlices (Instr.showImage x y width height data).header
          (imageSlices x.toNat y.toNat width.toNat (height.toNat / 8) data) s) := by
  rw [exec, execShowImage, if_pos h8]

/-- An empty image passes the check at any coordinates and writes nothing. -/
theorem exec_showImage_of_empty {width height : Byte} (h8 : height.toNat % 8 = 0) (hempty : width = 0 ∨ height = 0)
    (x y : Byte) (data : List Byte) (s : State) : exec (.showImage x y width height data) s = .next s := by
  have hslices : imageSlices x.toNat y.toNat width.toNat (height.toNat / 8) data = [] := by
    refine imageSlices_of_empty ?_ _ _ _
    rwa [toNat_eq_zero_iff, rows_eq_zero_iff h8]
  rw [exec_showImage h8, hslices]
  rfl

/-- The strips of an image that is empty or fits pass the check and draw that image and nothing else. -/
theorem drawSlices_imageSlices_of_fits (h : Word) {x y width rows : Nat} (data : List Byte) (s : State)
    (hfits : width = 0 ∨ rows = 0 ∨ x + width ≤ 128 ∧ y + 8 * rows ≤ 64) :
    OnlyDrawn s (drawSlices h (imageSlices x y width rows data) s) ∧
      ImageDrawn s (drawSlices h (imageSlices x y width rows data) s) x y width rows data := by
  rw [drawSlices, if_pos ((all_sliceInRange_imageSlices_iff x y width rows data).mpr hfits)]
  exact ⟨foldl_drawSlice_onlyDrawn _ s,
    foldl_imageSlices_imageDrawn y data s (hfits.imp_right (Or.imp_right And.left))⟩

/-- An image that does not fit is refused as a whole. -/
theorem drawSlices_imageSlices_of_outside (h : Word) {x y width rows : Nat} (data : List Byte) (s : State)
    (hwidth : 0 < width) (hrows : 0 < rows) (hout : 128 < x + width ∨ 64 < y + 8 * rows) :
    FaultEntered .coordRange h s (drawSlices h (imageSlices x y width rows data) s) := by
  have hcheck : ¬ (imageSlices x y width rows data).all sliceInRange = true := by
    rw [all_sliceInRange_imageSlices_iff]
    omega
  rw [drawSlices, if_neg hcheck]
  exact raise_faultEntered _ h s

/-- Settles O35: the words, and the strips drawn, empty, or refused for their place. -/
theorem showImageRule : Obligations.ShowImageRule := by
  refine ⟨fun w hw words hop hrsv hhigh => ⟨fun h8 => ?_, fun h8 hlen => ?_⟩,
    fun w hw words hop hrsv => decode_showImage_of_reserved words hop hrsv,
    fun x y width height data s hwf hfits => ?_,
    fun x y width height s hempty hwf => exec_showImage_of_empty (height_of_wf hwf) hempty x y [] s,
    fun x y width height data s hwf hwidth hheight hout => ?_⟩
  · exact decode_showImage_of_checkHeight_error words (checkHeader_showImage hop hrsv) (checkHeight_eq_imageHeight hhigh h8)
  · rw [← toNat_extractLsb'_low_byte hhigh] at hlen ⊢
    exact decode_showImage_of_checkHeight_ok (checkHeader_showImage hop hrsv) (checkHeight_eq_ok hhigh h8) hlen
  · rw [exec_showImage (height_of_wf hwf)]
    refine ⟨_, rfl, drawSlices_imageSlices_of_fits _ data s ?_⟩
    rwa [pages_fit_iff, ← toNat_eq_zero_iff width, ← rows_eq_zero_iff (height_of_wf hwf)] at hfits
  · rw [ne_eq, ← toNat_eq_zero_iff] at hwidth
    rw [ne_eq, ← rows_eq_zero_iff (height_of_wf hwf)] at hheight
    rw [pages_outside_iff] at hout
    exact ⟨_, exec_showImage (height_of_wf hwf) x y width data s,
      drawSlices_imageSlices_of_outside _ data s (Nat.pos_of_ne_zero hwidth) (Nat.pos_of_ne_zero hheight) hout⟩

/-! ### Zeroing pages (R184, R186) -/

/-- The pages `pages` zeroed. -/
def zeroPages (pages : List Nat) (s : State) : State := pages.foldl (fun t p => zeroPage p t) s

theorem zeroPages_cons (p : Nat) (pages : List Nat) (s : State) :
    zeroPages (p :: pages) s = zeroPages pages (zeroPage p s) := rfl

@[simp] theorem zeroPages_dirty (pages : List Nat) (s : State) : (zeroPages pages s).dirty = s.dirty := by
  induction pages generalizing s with
  | nil => rfl
  | cons p pages ih => rw [zeroPages_cons, ih, zeroPage_dirty]

theorem zeroPages_onlyDrawn (pages : List Nat) (s : State) : OnlyDrawn s (zeroPages pages s) :=
  OnlyDrawn.foldl (fun t p => zeroPage_onlyDrawn p t) pages s

theorem fbRead_zeroPages (pages : List Nat) (s : State) (p : Nat) {c : Nat} (hc : c < 128) :
    fbRead (zeroPages pages s) p c = if p ∈ pages then 0 else fbRead s p c := by
  induction pages generalizing s with
  | nil => rfl
  | cons q pages ih =>
    rw [zeroPages_cons, ih, fbRead_zeroPage q s p c hc]
    by_cases hpage : p = q <;> simp [hpage]

/-- The pages are cleared by the mask as it was at the start: zeroing a page marks none. -/
theorem foldl_clearPageIfDirty (pages : List Nat) (s : State) :
    pages.foldl clearPageIfDirty s = zeroPages (pages.filter (isDirty s.dirty)) s := by
  induction pages generalizing s with
  | nil => rfl
  | cons p pages ih =>
    rw [List.foldl_cons, ih, clearPageIfDirty]
    by_cases hdirty : isDirty s.dirty p = true
    · rw [if_pos hdirty, List.filter_cons_of_pos hdirty, zeroPages_cons, zeroPage_dirty]
    · rw [if_neg hdirty, List.filter_cons_of_neg hdirty]

theorem mem_dirtyPages_iff {p : Nat} (s : State) (hp : p < 8) : p ∈ dirtyPages s ↔ isDirty s.dirty p = true := by
  simp [dirtyPages, hp]

/-! ### `CLEAR_SCREEN` (R186) -/

theorem exec_clearScreen (s : State) : exec .clearScreen s = .next (zeroPages (List.range 8) s) := rfl

theorem fbRead_zeroPages_all (s : State) {p c : Nat} (hp : p < 8) (hc : c < 128) :
    fbRead (zeroPages (List.range 8) s) p c = 0 := by
  rw [fbRead_zeroPages _ s p hc, if_pos (List.mem_range.mpr hp)]

/-- Settles O37: the word, and the eight pages zeroed, read as cells and through the read port. -/
theorem clearScreenRule : Obligations.ClearScreenRule := by
  refine ⟨fun w hop => decode_clearScreen hop, fun s => ⟨_, exec_clearScreen s, zeroPages_onlyDrawn _ s,
    zeroPages_dirty _ s, fun p hp c hc => fbRead_zeroPages_all s hp hc, fun a ha => ?_⟩⟩
  rw [regRead_of_lt_0x400 ha, fbRead_zeroPages_all s (by omega) (by omega)]
  rfl

/-! ### The flush of the dirty pages (R221, R224) -/

/-- The writes of a list of pages are those of its dirty pages. -/
theorem flatMap_pageWrites (pages : List Nat) (s : State) :
    pages.flatMap (pageWrites s) =
      (pages.filter (isDirty s.dirty)).flatMap fun p => pagePair s.params p (pageBytes s p) := by
  induction pages with
  | nil => rfl
  | cons p pages ih =>
    rw [List.flatMap_cons, ih, pageWrites]
    by_cases hdirty : isDirty s.dirty p = true
    · rw [if_pos hdirty, List.filter_cons_of_pos hdirty, List.flatMap_cons]
      rfl
    · rw [if_neg hdirty, List.filter_cons_of_neg hdirty, List.nil_append]

/-- A flush sends the dirty pages as they stand. -/
theorem renderWith_busLog (bus : Nat → BusResult) (s : State) :
    (renderWith bus s).busLog =
      s.busLog ++ (dirtyPages s).flatMap fun p => pagePair s.params p (pageBytes s p) := by
  rw [renderWith_eq]
  exact congrArg _ (flatMap_pageWrites _ s)

theorem renderWith_dirty (bus : Nat → BusResult) (s : State) : (renderWith bus s).dirty = 0x00#8 := rfl

/-! ### `CLEAR_DATA` (R184) -/

theorem exec_clearData (s : State) :
    exec .clearData s = .next (renderWith (busOf s) (zeroPages (dirtyPages s) s)) := by
  rw [dirtyPages, ← foldl_clearPageIfDirty]
  rfl

theorem pageBytes_of_zero {s : State} {p : Nat} (hzero : ∀ c < 128, fbRead s p c = 0) :
    pageBytes s p = List.replicate 128 0 := by
  refine List.eq_replicate_iff.mpr ⟨by simp [pageBytes], fun b hb => ?_⟩
  obtain ⟨c, hc, rfl⟩ := List.mem_map.mp hb
  exact hzero c (List.mem_range.mp hc)

/-- The pages the flush of `CLEAR_DATA` sends are the ones just zeroed. -/
theorem clearData_busLog (bus : Nat → BusResult) (s : State) :
    (renderWith bus (zeroPages (dirtyPages s) s)).busLog =
      s.busLog ++ (dirtyPages s).flatMap fun p => pagePair s.params p (List.replicate 128 0) := by
  obtain ⟨⟨hparams, -, -, -⟩, -, -, hlog⟩ := zeroPages_onlyDrawn (dirtyPages s) s
  have hpages : dirtyPages (zeroPages (dirtyPages s) s) = dirtyPages s := by simp [dirtyPages]
  rw [renderWith_busLog, hlog, hparams, hpages]
  refine congrArg _ (List.flatMap_congr fun p hp => ?_)
  rw [pageBytes_of_zero fun c hc => by rw [fbRead_zeroPages _ s p hc, if_pos hp]]

/-- Settles O36: the word, and the dirty pages zeroed and then sent. -/
theorem clearDataRule : Obligations.ClearDataRule := by
  refine ⟨fun w hop => decode_clearData hop, fun s => ⟨_, exec_clearData s, fun p hp c hc => ?_, renderWith_dirty _ _,
    clearData_busLog _ s, ?_⟩⟩
  · rw [fbRead_congr (renderWith_fb _ _) (renderWith_epoch _ _), fbRead_zeroPages _ s p hc]
    simp only [mem_dirtyPages_iff s hp]
  · obtain ⟨hhost, hcontrol, hcursors, -⟩ := zeroPages_onlyDrawn (dirtyPages s) s
    rw [renderWith_eq]
    exact ⟨hhost, hcontrol, hcursors⟩

end Machine

end Sys2Proof
end

section
/-! Proofs about the cursor and lines (43_raster_line.md): the pixels and the dirty bits after the points of a line are
plotted, and the commands `SET_CURSOR` (R202) and `LINE_TO` (R204) with their words. -/

namespace Sys2Proof

/-! ### Commands of one word with the operands `x` and `y` (R101, R104) -/

/-- A command that takes `x` and `y` alone reserves bits 27 to 16 of its one word. -/
theorem decode_two_operands {w : Word} {op : Opcode} {i : Instr} (hop : opField w = op.toBits)
    (hmask : op.rsvMask = 0x0FFF0000#32) (himage : op ≠ .showImage) (hneed : headerNeed op w = 0)
    (hinstr : instrOf op w none [] = some i) :
    decode [w] = if w.extractLsb' 16 12 = 0#12 then .ok (i, []) else .error (.badWord .reservedBits) := by
  have hfield : w &&& op.rsvMask = 0#32 ↔ w.extractLsb' 16 12 = 0#12 := by
    rw [hmask]
    exact and_ones_shiftLeft_eq_zero_iff w (show 16 + 12 ≤ 32 by decide)
  rw [decode_header_only hop himage hneed hinstr]
  simp only [hfield]

theorem decode_setCursor {w : Word} (hop : opField w = 0xB#4) :
    decode [w] =
      if w.extractLsb' 16 12 = 0#12 then .ok (.setCursor (fieldA w) (fieldB w), [])
      else .error (.badWord .reservedBits) :=
  decode_two_operands (op := .setCursor) hop rfl (by decide) rfl rfl

theorem decode_lineTo {w : Word} (hop : opField w = 0xC#4) :
    decode [w] =
      if w.extractLsb' 16 12 = 0#12 then .ok (.lineTo (fieldA w) (fieldB w), [])
      else .error (.badWord .reservedBits) :=
  decode_two_operands (op := .lineTo) hop rfl (by decide) rfl rfl

namespace Machine

/-! ### `SET_CURSOR` (R202) -/

/-- A cursor update writes neither a cell nor a bit of the mask (R39). -/
theorem updateCursor_onlyMovedCursor (v : Point) (s : State) : OnlyMovedCursor s (updateCursor v s) :=
  ⟨⟨updateCursor_params v s, updateCursor_hostQueue v s, updateCursor_readLog v s, updateCursor_epoch v s⟩,
    ⟨updateCursor_parse v s, updateCursor_fault v s, updateCursor_faultCause v s, updateCursor_faultInfo v s⟩,
    SameCells.of_fb_epoch (updateCursor_fb v s) (updateCursor_epoch v s), updateCursor_dirty v s,
    updateCursor_busLog v s⟩

/-- Settles O41: the words, the update of the two points, and the two bits of `STATUS` that show them. -/
theorem setCursorRule : Obligations.SetCursorRule := by
  refine ⟨fun w hop => decode_setCursor hop, fun x y s => ⟨_, exec_setCursor x y s, updateCursor_cur _ s,
    updateCursor_prev _ s, updateCursor_onlyMovedCursor _ s, ?_, ?_⟩⟩
  · rw [regRead_0x400, statusReg_getLsbD_8, updateCursor_cur, Option.isSome_some]
  · rw [regRead_0x400, statusReg_getLsbD_9, updateCursor_prev]

/-! ### Plotting a list of points (R140, R204) -/

theorem plotPoint_params (s : State) (u : Int × Int) : (plotPoint s u).params = s.params := rfl

/-- A pixel is set after one logical point is plotted when it was set or is that point's raw pixel. -/
theorem getLsbD_fbRead_plotPoint_iff (s : State) {u : Int × Int} (p : Nat) {c b : Nat}
    (hcol : rawX s.params u.1.toNat < 128) (hc : c < 128) (hb : b < 8) :
    (fbRead (plotPoint s u) p c).getLsbD b = true ↔
      (fbRead s p c).getLsbD b = true ∨ rawX s.params u.1.toNat = c ∧ rawY s.params u.2.toNat = 8 * p + b := by
  have hpixel : (p = rawY s.params u.2.toNat / 8 ∧ c = rawX s.params u.1.toNat ∧ b = rawY s.params u.2.toNat % 8) ↔
      rawX s.params u.1.toNat = c ∧ rawY s.params u.2.toNat = 8 * p + b := by
    omega
  rw [plotPoint, getLsbD_fbRead_plot _ s p hcol hc, Bool.or_eq_true, decide_eq_true_iff, hpixel]

/-- Plotting sets pixels only, so after a list of points a pixel is set when it was or when a point of the list is there. -/
theorem getLsbD_fbRead_foldl_plotPoint_iff {points : List (Int × Int)} {s : State} (p : Nat) {c b : Nat}
    (hcols : ∀ u ∈ points, rawX s.params u.1.toNat < 128) (hc : c < 128) (hb : b < 8) :
    (fbRead (points.foldl plotPoint s) p c).getLsbD b = true ↔
      (fbRead s p c).getLsbD b = true ∨
        ∃ u ∈ points, rawX s.params u.1.toNat = c ∧ rawY s.params u.2.toNat = 8 * p + b := by
  induction points generalizing s with
  | nil => simp
  | cons u rest ih =>
    obtain ⟨hcol, hrest⟩ := List.forall_mem_cons.mp hcols
    rw [List.foldl_cons, ih (s := plotPoint s u) hrest, getLsbD_fbRead_plotPoint_iff s p hcol hc hb, plotPoint_params,
      List.exists_mem_cons_iff, or_assoc]

/-- A page is dirty after a list of points is plotted when it was or when a point of the list lies in it. -/
theorem isDirty_foldl_plotPoint_iff (points : List (Int × Int)) (s : State) {q : Nat} (hq : q < 8) :
    isDirty (points.foldl plotPoint s).dirty q = true ↔
      isDirty s.dirty q = true ∨ ∃ u ∈ points, rawY s.params u.2.toNat / 8 = q := by
  induction points generalizing s with
  | nil => simp
  | cons u rest ih =>
    have hhead : isDirty (plotPoint s u).dirty q = true ↔ isDirty s.dirty q = true ∨ rawY s.params u.2.toNat / 8 = q := by
      rw [plotPoint, plot_dirty, isDirty_or_page _ _ hq, Bool.or_eq_true, decide_eq_true_iff, eq_comm (a := q)]
    rw [List.foldl_cons, ih, hhead, plotPoint_params, List.exists_mem_cons_iff, or_assoc]

theorem foldl_plotPoint_onlyDrawn (points : List (Int × Int)) (s : State) : OnlyDrawn s (points.foldl plotPoint s) :=
  OnlyDrawn.foldl plotPoint_onlyDrawn points s

/-! ### `LINE_TO` (R204) -/

theorem pointInRange_iff (params : Params) (u : Int × Int) :
    pointInRange params u = true ↔ u.1 + params.originX.toNat < 128 ∧ u.2 + params.originY.toNat < 64 := by
  rw [pointInRange, Bool.and_eq_true, decide_eq_true_iff, decide_eq_true_iff]

/-- The check bounds a point from above only, which is enough for its raw column: a negative coordinate plots in the
Origin's own column, and R8 has that inside the buffer. -/
theorem rawX_lt_of_pointInRange {params : Params} {u : Int × Int} (hwf : params.Wf)
    (hin : pointInRange params u = true) : rawX params u.1.toNat < 128 := by
  obtain ⟨horigin, -⟩ := hwf
  obtain ⟨hcol, -⟩ := (pointInRange_iff params u).mp hin
  rw [rawX]
  omega

/-- Without a current point there is no line. -/
theorem exec_lineTo_of_unset {s : State} (hcur : s.cur = none) (x y : Byte) :
    exec (.lineTo x y) s = .next (raise .cursorUnset (Instr.lineTo x y).header s) := by
  simp only [exec, execLineTo, hcur]

/-- From a current point the whole line is checked before the cursor moves and the points are plotted. -/
theorem exec_lineTo_of_set {q : Point} {s : State} (hcur : s.cur = some q) (x y : Byte) :
    exec (.lineTo x y) s =
      .next
        (if ∀ u ∈ lineTo q x y, pointInRange s.params u = true then
          (lineTo q x y).foldl plotPoint (updateCursor { x := x, y := y } s)
        else raise .coordRange (Instr.lineTo x y).header s) := by
  simp only [exec, execLineTo, hcur, List.all_eq_true]

/-- Settles O43: the words, the two faults, and the line drawn from the moved cursor on. -/
theorem lineToRule : Obligations.LineToRule := by
  refine ⟨fun w hop => decode_lineTo hop, fun x y s hcur => ?_, fun x y q s hcur hout => ?_,
    fun x y q s hcur hwf hfits => ?_⟩
  · exact ⟨_, exec_lineTo_of_unset hcur x y, raise_faultEntered _ _ s⟩
  · have hcheck : ¬ ∀ u ∈ lineTo q x y, pointInRange s.params u = true := by
      obtain ⟨u, hu, hcoord⟩ := hout
      intro hall
      have hin := (pointInRange_iff s.params u).mp (hall u hu)
      omega
    exact ⟨_, by rw [exec_lineTo_of_set hcur, if_neg hcheck], raise_faultEntered _ _ s⟩
  · have hcheck : ∀ u ∈ lineTo q x y, pointInRange s.params u = true :=
      fun u hu => (pointInRange_iff s.params u).mpr (hfits u hu)
    have hcols : ∀ u ∈ lineTo q x y, rawX s.params u.1.toNat < 128 :=
      fun u hu => rawX_lt_of_pointInRange hwf (hcheck u hu)
    obtain ⟨hhost, hcontrol, ⟨hcurAfter, hprevAfter⟩, hlog⟩ :=
      foldl_plotPoint_onlyDrawn (lineTo q x y) (updateCursor { x := x, y := y } s)
    exact ⟨_, by rw [exec_lineTo_of_set hcur, if_pos hcheck], hcurAfter.trans (updateCursor_cur _ s),
      hprevAfter.trans ((updateCursor_prev _ s).trans hcur),
      fun p _ c hc b hb => getLsbD_fbRead_foldl_plotPoint_iff p hcols hc hb,
      fun p hp => isDirty_foldl_plotPoint_iff _ _ hp, hhost, hcontrol, hlog⟩

end Machine

end Sys2Proof
end

section
/-! Proofs about the transport (44_transport.md): the commands `NOP` (R220), `INIT` (R222) and `RENDER` (R225) with their
words, a payload word that leaves its command going on (R120), and the flush over any bus (R227). -/

namespace Sys2Proof

/-! ### The words of `NOP`, `INIT` and `RENDER` (R101, R104) -/

theorem decode_nop {w : Word} (hop : opField w = 0x0#4) :
    decode [w] = if w = 0#32 then .ok (.nop, []) else .error (.badWord .reservedBits) :=
  decode_without_operands (op := .nop) hop rfl (by decide) rfl rfl

theorem decode_init {w : Word} (hop : opField w = 0x9#4) :
    decode [w] = if w = 0x90000000#32 then .ok (.init, []) else .error (.badWord .reservedBits) :=
  decode_without_operands (op := .init) hop rfl (by decide) rfl rfl

theorem decode_render {w : Word} (hop : opField w = 0xA#4) :
    decode [w] = if w = 0xA0000000#32 then .ok (.render, []) else .error (.badWord .reservedBits) :=
  decode_without_operands (op := .render) hop rfl (by decide) rfl rfl

namespace Machine

/-! ### `RENDER` (R224, R225) -/

/-- The whole effect of a flush: the dirty pages as they stand are sent, and the mask is cleared. -/
theorem renderWith_eq_dirtyPages (bus : Nat → BusResult) (s : State) :
    renderWith bus s =
      { s with
        dirty := 0x00#8
        busLog := s.busLog ++ (dirtyPages s).flatMap fun p => pagePair s.params p (pageBytes s p) } := by
  rw [renderWith_eq, flatMap_pageWrites, dirtyPages]

/-- The bytes of a page depend on neither the mask nor the log. -/
theorem pageBytes_of_flushed (s : State) (dirty : BitVec 8) (log : List BusWrite) (p : Nat) :
    pageBytes { s with dirty := dirty, busLog := log } p = pageBytes s p :=
  congrArg (List.map · _) (funext fun c => fbRead_congr rfl rfl p c)

theorem length_pageBytes (s : State) (p : Nat) : (pageBytes s p).length = 128 := by
  rw [pageBytes, List.length_map, List.length_range]

/-- Settles O39: the word, the flush of the dirty pages, and the data write's control byte before the 128 bytes of a page. -/
theorem renderRule : Obligations.RenderRule := by
  refine ⟨fun w hop => decode_render hop, fun s => ?_, fun s p => ?_⟩
  · rw [exec_render, renderWith_eq_dirtyPages]
  · rw [List.length_cons, length_pageBytes]

/-! ### `INIT` (R222) -/

theorem dirtyPages_of_all_dirty {s : State} (hall : s.dirty = 0xFF#8) : dirtyPages s = List.range 8 := by
  rw [dirtyPages, hall]
  decide

/-- The whole effect of `INIT`: the mask 0xFF makes the flush send every page, whatever the mask held before. -/
theorem initWith_eq (bus : Nat → BusResult) (s : State) :
    initWith bus s =
      { s with
        dirty := 0x00#8
        busLog :=
          s.busLog ++
            initWrite s.params :: (List.range 8).flatMap fun p => pagePair s.params p (pageBytes s p) } := by
  rw [initWith, renderWith_eq_dirtyPages, dirtyPages_of_all_dirty rfl]
  simp only [busWrite, afterBus, pageBytes_of_flushed, List.append_assoc, List.singleton_append]

/-- Every page sent is two writes, its command and its data (R221). -/
theorem length_flatMap_pagePair (params : Params) (content : Nat → List Byte) (pages : List Nat) :
    (pages.flatMap fun p => pagePair params p (content p)).length = 2 * pages.length := by
  induction pages with
  | nil => rfl
  | cons p pages ih =>
    rw [List.flatMap_cons, List.length_append, ih, List.length_cons, pagePair, List.length_cons, List.length_singleton]
    omega

/-- Settles O38: the word, the frame and the log of `initWith_eq`, and one write for the burst with two for each page. -/
theorem initRule : Obligations.InitRule := by
  refine ⟨fun w hop => decode_init hop, fun s => ⟨_, by rw [exec_init, initWith_eq], ?_, rfl, rfl, ?_⟩⟩
  · exact ⟨⟨rfl, rfl, rfl, rfl⟩, ⟨rfl, rfl, rfl, rfl⟩, ⟨rfl, rfl⟩, SameCells.of_fb_epoch rfl rfl⟩
  · rw [List.length_append, List.length_cons, length_flatMap_pagePair, List.length_range]

/-! ### `NOP` (R220) and payload words (R120) -/

/-- A payload word before the last joins the words of its command, whatever it is. -/
theorem payloadMove_of_lt {words : List Word} {need : Nat} (hmore : words.length + 1 < need) (h : Word)
    (aux : Option Byte) (w : Word) : payloadMove h aux words need w = .goto (.collect h aux (words ++ [w]) need) := by
  refine if_neg ?_
  rw [List.length_append, List.length_singleton]
  omega

/-- Outside the fault state a word after which the command goes on changes the parser alone. -/
theorem step_of_parserMove_goto {s : State} {w : Word} {rest : List HostEvent} {p : Parse} (hrun : s.fault = false)
    (hq : s.hostQueue = .word w :: rest) (hmove : parserMove s.parse w = .goto p) :
    step s = .next { s with parse := p, hostQueue := rest } := by
  rw [step_cons hq]
  simp [acceptEvent, acceptWord, hrun, hmove]

/-- Settles O26: no effect, the one word, and the word 0 among payload words, which are not inspected. -/
theorem nopRule : Obligations.NopRule := by
  refine ⟨exec_nop, fun w hop => decode_nop hop, fun s h aux words need rest hrun hparse hwait hmore hq => ?_⟩
  refine step_of_parserMove_goto hrun hq ?_
  rw [hparse] at hwait ⊢
  rw [parserMove_of_not_awaitsHeight hwait, payloadMove_of_lt hmore]

/-! ### The flush over any bus (R227) -/

/-- No part of a flush uses the results of its writes. -/
theorem renderWith_bus_irrelevant (bus bus' : Nat → BusResult) (s : State) : renderWith bus s = renderWith bus' s := by
  rw [renderWith_eq, renderWith_eq]

theorem initWith_bus_irrelevant (bus bus' : Nat → BusResult) (s : State) : initWith bus s = initWith bus' s := by
  rw [initWith_eq, initWith_eq]

/-- The pages are zeroed before the first write, so only the flush meets the bus. -/
theorem clearDataWith_bus_irrelevant (bus bus' : Nat → BusResult) (s : State) :
    clearDataWith bus s = clearDataWith bus' s :=
  renderWith_bus_irrelevant bus bus' _

theorem exec_clearData_eq_clearDataWith (s : State) : exec .clearData s = .next (clearDataWith (busOf s) s) := rfl

/-- Settles O52: each command runs over this run's own bus, which any other bus may replace. -/
theorem busFailureChangesNothing : Obligations.BusFailureChangesNothing := by
  refine fun bus s => ⟨?_, ?_, ?_⟩
  · rw [exec_render, renderWith_bus_irrelevant (busOf s) bus]
  · rw [exec_init, initWith_bus_irrelevant (busOf s) bus]
  · rw [exec_clearData_eq_clearDataWith, clearDataWith_bus_irrelevant (busOf s) bus]

end Machine

end Sys2Proof
end

section
/-! Proofs about the faults (60_exceptions.md): a command keeps the fault registers and the parser or enters the fault state and
does nothing else (R254), and the fault state, in which words are discarded and reads answered (R256) until a reset (R257). -/

namespace Sys2Proof.Machine

/-! ### What a command does to the fault registers (R254) -/

theorem SameControl.trans {s t u : State} (h : SameControl s t) (k : SameControl t u) : SameControl s u := by
  obtain ⟨hparse, hfault, hcause, hinfo⟩ := h
  obtain ⟨kparse, kfault, kcause, kinfo⟩ := k
  exact ⟨kparse.trans hparse, kfault.trans hfault, kcause.trans hcause, kinfo.trans hinfo⟩

/-- The two ends of the command with header word `h`: the fault registers and the parser are kept, or `t` is `s` after fault
entry and nothing else. -/
def KeepsControlOrFaults (h : Word) (s t : State) : Prop :=
  SameControl s t ∨ ∃ cause, FaultEntered cause h s t

theorem KeepsControlOrFaults.of_raise (cause : Cause) (h : Word) (s : State) :
    KeepsControlOrFaults h s (raise cause h s) :=
  .inr ⟨cause, raise_faultEntered cause h s⟩

theorem OnlyDrawn.keepsControlOrFaults {s t : State} (hdrawn : OnlyDrawn s t) (h : Word) :
    KeepsControlOrFaults h s t := by
  obtain ⟨-, hcontrol, -, -⟩ := hdrawn
  exact .inl hcontrol

/-- A command without the fault flag before it has the flag after it only by fault entry. -/
theorem KeepsControlOrFaults.faultEntered {h : Word} {s t : State} (hends : KeepsControlOrFaults h s t)
    (hrun : s.fault = false) (hfault : t.fault = true) : ∃ cause, FaultEntered cause h s t := by
  rcases hends with ⟨-, hkept, -, -⟩ | hentered
  · rw [hkept, hrun] at hfault
    cases hfault
  · exact hentered

/-- A command that is one check, with a fault where the check fails. -/
theorem KeepsControlOrFaults.ite {P : Prop} [Decidable P] {h : Word} {s t : State} (ht : KeepsControlOrFaults h s t)
    (cause : Cause) : KeepsControlOrFaults h s (if P then t else raise cause h s) := by
  split
  · exact ht
  · exact .of_raise cause h s

theorem drawSlices_keepsControlOrFaults (h : Word) (slices : List Slice) (s : State) :
    KeepsControlOrFaults h s (drawSlices h slices s) := by
  rcases drawSlices_cases h slices s with ⟨-, hdraw⟩ | ⟨-, hraise⟩
  · rw [hdraw]
    exact (foldl_drawSlice_onlyDrawn slices s).keepsControlOrFaults h
  · rw [hraise]
    exact .of_raise _ h s

theorem drawText_keepsControlOrFaults (h : Word) (x y : Nat) (chars : List Byte) (s : State) :
    KeepsControlOrFaults h s (drawText h x y chars s) := by
  rcases drawText_cases h x y chars s with ⟨-, hdraw⟩ | ⟨-, hraise⟩
  · rw [hdraw]
    exact drawSlices_keepsControlOrFaults h _ s
  · rw [hraise]
    exact .of_raise _ h s

/-- A flush writes the mask and the bus log only. -/
theorem renderWith_sameControl (bus : Nat → BusResult) (s : State) : SameControl s (renderWith bus s) := by
  rw [renderWith_eq]
  exact ⟨rfl, rfl, rfl, rfl⟩

theorem initWith_sameControl (bus : Nat → BusResult) (s : State) : SameControl s (initWith bus s) := by
  rw [initWith_eq]
  exact ⟨rfl, rfl, rfl, rfl⟩

theorem updateCursor_sameControl (v : Point) (s : State) : SameControl s (updateCursor v s) := by
  obtain ⟨-, hcontrol, -, -, -⟩ := updateCursor_onlyMovedCursor v s
  exact hcontrol

/-- A height that is no multiple of 8 is refused before the coordinates are looked at (R259). -/
theorem exec_showImage_of_refusedHeight {height : Byte} (h8 : height.toNat % 8 ≠ 0) (x y width : Byte)
    (data : List Byte) (s : State) :
    exec (.showImage x y width height data) s =
      .next (raise .imageHeight (Instr.showImage x y width height data).header s) := by
  rw [exec, execShowImage, if_neg h8]

theorem exec_showImage_keepsControlOrFaults (x y width height : Byte) (data : List Byte) (s : State) :
    ∃ t, exec (.showImage x y width height data) s = .next t ∧
      KeepsControlOrFaults (Instr.showImage x y width height data).header s t := by
  by_cases h8 : height.toNat % 8 = 0
  · exact ⟨_, exec_showImage h8 x y width data s, drawSlices_keepsControlOrFaults _ _ s⟩
  · exact ⟨_, exec_showImage_of_refusedHeight h8 x y width data s, .of_raise _ _ s⟩

/-- The cursor moves and the points are plotted only after both checks of `LINE_TO`. -/
theorem exec_lineTo_keepsControlOrFaults (x y : Byte) (s : State) :
    ∃ t, exec (.lineTo x y) s = .next t ∧ KeepsControlOrFaults (Instr.lineTo x y).header s t := by
  cases hcur : s.cur with
  | none => exact ⟨_, exec_lineTo_of_unset hcur x y, .of_raise _ _ s⟩
  | some q =>
    obtain ⟨-, hplots, -, -⟩ := foldl_plotPoint_onlyDrawn (lineTo q x y) (updateCursor { x := x, y := y } s)
    have hdraw := (updateCursor_sameControl { x := x, y := y } s).trans hplots
    exact ⟨_, exec_lineTo_of_set hcur x y, .ite (.inl hdraw) _⟩

theorem exec_clearData_sameControl (s : State) : ∃ t, exec .clearData s = .next t ∧ SameControl s t := by
  obtain ⟨-, hzeroed, -, -⟩ := zeroPages_onlyDrawn (dirtyPages s) s
  exact ⟨_, exec_clearData s, hzeroed.trans (renderWith_sameControl _ _)⟩

/-- Every command answers a next state, by one of the two ends for its own header word. -/
theorem exec_keepsControlOrFaults (i : Instr) (s : State) :
    ∃ t, exec i s = .next t ∧ KeepsControlOrFaults i.header s t := by
  cases i with
  | nop => exact ⟨_, exec_nop s, (OnlyDrawn.refl s).keepsControlOrFaults _⟩
  | drawPixel x y => exact ⟨_, exec_drawPixel x y s, .ite ((plot_onlyDrawn _ _ s).keepsControlOrFaults _) _⟩
  | drawPixels x y v => exact ⟨_, exec_drawPixels x y v s, .ite ((pixels_onlyDrawn _ _ v s).keepsControlOrFaults _) _⟩
  | drawChar x y c => exact ⟨_, exec_drawChar x y c s, drawText_keepsControlOrFaults _ _ _ _ s⟩
  | drawString x y text => exact ⟨_, exec_drawString x y text s, drawText_keepsControlOrFaults _ _ _ _ s⟩
  | drawNumber x y n digits => exact ⟨_, exec_drawNumber x y n digits s, drawSlices_keepsControlOrFaults _ _ s⟩
  | showImage x y width height data => exact exec_showImage_keepsControlOrFaults x y width height data s
  | clearData =>
    obtain ⟨t, hexec, hcontrol⟩ := exec_clearData_sameControl s
    exact ⟨t, hexec, .inl hcontrol⟩
  | clearScreen => exact ⟨_, exec_clearScreen s, (zeroPages_onlyDrawn _ s).keepsControlOrFaults _⟩
  | init => exact ⟨_, exec_init s, .inl (initWith_sameControl _ s)⟩
  | render => exact ⟨_, exec_render s, .inl (renderWith_sameControl _ s)⟩
  | setCursor x y => exact ⟨_, exec_setCursor x y s, .inl (updateCursor_sameControl _ s)⟩
  | lineTo x y => exact exec_lineTo_keepsControlOrFaults x y s

/-- Settles O22: fault entry as R254 writes it, and of a command's two ends the one that sets the flag. -/
theorem faultingCommandHasNoOtherEffect : Obligations.FaultingCommandHasNoOtherEffect := by
  refine ⟨raise_faultEntered, fun i s hrun => ?_⟩
  obtain ⟨t, hexec, hends⟩ := exec_keepsControlOrFaults i s
  exact ⟨t, hexec, hends.faultEntered hrun⟩

/-! ### The fault state (R256, R257) -/

/-- In the fault state a word is taken off the port and nothing else happens, whatever the parser would make of it. -/
theorem step_of_word_faulted {s : State} {w : Word} {rest : List HostEvent} (hfault : s.fault = true)
    (hq : s.hostQueue = .word w :: rest) : step s = .next { s with hostQueue := rest } := by
  rw [step_cons hq, acceptEvent, acceptWord, if_pos hfault]

/-- Settles O11: a word is discarded, and a read does not ask the fault flag. -/
theorem faultStateDiscardsWords : Obligations.FaultStateDiscardsWords := fun _ _ hfault =>
  ⟨fun _ hq => step_of_word_faulted hfault hq, fun _ hq => step_of_read hq⟩

/-- A step of the fault state that is no reset changes the host's queue and the answers only, and queues no reset. -/
theorem step_faulted {s : State} (hfault : s.fault = true) (hreset : (.reset : HostEvent) ∉ s.hostQueue) :
    ∃ queue log, step s = .next { s with hostQueue := queue, readLog := log } ∧ (.reset : HostEvent) ∉ queue := by
  cases hq : s.hostQueue with
  | nil => exact ⟨s.hostQueue, s.readLog, step_nil hq, hreset⟩
  | cons e rest =>
    rw [hq, List.mem_cons, not_or] at hreset
    obtain ⟨hhead, hrest⟩ := hreset
    cases e with
    | word w => exact ⟨rest, s.readLog, step_of_word_faulted hfault hq, hrest⟩
    | read a => exact ⟨rest, _, step_of_read hq, hrest⟩
    | reset => exact absurd rfl hhead

/-- Settles O12, by induction on the number of steps: the state after one step is faulted again and has no reset to come. -/
theorem faultStateLastsUntilReset : Obligations.FaultStateLastsUntilReset := by
  intro k
  induction k with
  | zero => exact fun s _ _ => ⟨s.hostQueue, s.readLog, rfl⟩
  | succ k ih =>
    intro s hfault hreset
    obtain ⟨queue, log, hstep, hqueue⟩ := step_faulted hfault hreset
    obtain ⟨queue', log', hrun⟩ := ih { s with hostQueue := queue, readLog := log } hfault hqueue
    exact ⟨queue', log', (runSteps_succ_of_step hstep k).trans hrun⟩

end Sys2Proof.Machine
end

section
/-! Proofs about the decoder and the encoder (30_encoding.md): the words of every well-formed command decode to it (R126), a
decoded command has the first word received as its header (R254), and the match and mask of a header (R104). -/

namespace Sys2Proof

/-! ### Payload bytes (R107, R108) -/

theorem length_payloadBytes (ws : List Word) : (payloadBytes ws).length = 4 * ws.length := by
  simp [payloadBytes, wordBytes, List.length_flatMap, Nat.mul_comm]

/-- The payload words of `l` bytes hold them all. -/
theorem le_length_payloadBytes {l : Nat} {ws : List Word} (hlen : ws.length = payloadNeed l) :
    l ≤ (payloadBytes ws).length := by
  rw [length_payloadBytes, hlen, payloadNeed]
  omega

theorem payloadNeed_add_four (l : Nat) : payloadNeed (l + 4) = payloadNeed l + 1 := by
  rw [payloadNeed, payloadNeed]
  omega

/-- The encoder writes the payload words R107 counts. -/
theorem length_packBytes (bytes : List Byte) : (packBytes bytes).length = payloadNeed bytes.length := by
  induction bytes using packBytes.induct with
  | case1 => rfl
  | case2 | case3 | case4 => simp [packBytes, payloadNeed]
  | case5 b0 b1 b2 b3 rest ih =>
    rw [packBytes, List.length_cons, ih, ← payloadNeed_add_four]
    rfl

theorem payloadBytes_cons_pack (b0 b1 b2 b3 : Byte) (ws : List Word) :
    payloadBytes ((b3 ++ b2 ++ b1 ++ b0) :: ws) = [b0, b1, b2, b3] ++ payloadBytes ws := by
  rw [payloadBytes, List.flatMap_cons, wordBytes_pack]
  rfl

/-- The packed words hold the bytes in order, with the pad bytes after them. -/
theorem prefix_payloadBytes_packBytes (bytes : List Byte) : bytes <+: payloadBytes (packBytes bytes) := by
  induction bytes using packBytes.induct with
  | case1 => exact List.nil_prefix
  | case2 b0 => exact ⟨[0, 0, 0], (payloadBytes_cons_pack b0 0 0 0 []).symm⟩
  | case3 b0 b1 => exact ⟨[0, 0], (payloadBytes_cons_pack b0 b1 0 0 []).symm⟩
  | case4 b0 b1 b2 => exact ⟨[0], (payloadBytes_cons_pack b0 b1 b2 0 []).symm⟩
  | case5 b0 b1 b2 b3 rest ih =>
    rw [packBytes, payloadBytes_cons_pack]
    exact (List.prefix_append_right_inj [b0, b1, b2, b3]).mpr ih

theorem take_payloadBytes_packBytes (bytes : List Byte) :
    (payloadBytes (packBytes bytes)).take bytes.length = bytes :=
  (List.prefix_iff_eq_take.mp (prefix_payloadBytes_packBytes bytes)).symm

/-! ### Decoding what was encoded (R126) -/

/-- Every command's header passes the checks as the command's opcode. -/
theorem checkHeader_header (i : Instr) : checkHeader i.header = .ok i.opcode := by
  cases i with
  | nop => exact Laws.HeaderChecks.nop
  | drawPixel x y => exact Laws.HeaderChecks.drawPixel x y
  | drawPixels x y v => exact Laws.HeaderChecks.drawPixels x y v
  | drawChar x y c => exact Laws.HeaderChecks.drawChar x y c
  | drawString x y text => exact Laws.HeaderChecks.drawString x y text
  | drawNumber x y n digits => exact Laws.HeaderChecks.drawNumber x y n digits
  | showImage x y width height data => exact Laws.HeaderChecks.showImage x y width height data
  | clearData => exact Laws.HeaderChecks.clearData
  | clearScreen => exact Laws.HeaderChecks.clearScreen
  | init => exact Laws.HeaderChecks.init
  | render => exact Laws.HeaderChecks.render
  | setCursor x y => exact Laws.HeaderChecks.setCursor x y
  | lineTo x y => exact Laws.HeaderChecks.lineTo x y

/-- Payload words that are there and make a command are taken, and the words after them are left. -/
theorem decodePayload_append {op : Opcode} {h : Word} {aux : Option Byte} {need : Nat} {words : List Word} {i : Instr}
    (hlen : words.length = need) (hinstr : instrOf op h aux words = some i) (rest : List Word) :
    decodePayload op h aux need (words ++ rest) = .ok (i, rest) := by
  subst hlen
  simp [decodePayload, hinstr]

theorem decode_header_append {i : Instr} {words : List Word} (himage : i.opcode ≠ .showImage)
    (hlen : words.length = headerNeed i.opcode i.header) (hinstr : instrOf i.opcode i.header none words = some i)
    (rest : List Word) : decode (i.header :: (words ++ rest)) = .ok (i, rest) := by
  rw [decode_of_checkHeader_ok _ (checkHeader_header i) himage, decodePayload_append hlen hinstr]

/-- The header and the height of an image hand its payload on. -/
theorem decode_image {h w : Word} {height : Byte} (hc : checkHeader h = .ok .showImage) (hh : checkHeight w = .ok height)
    (words : List Word) :
    decode (h :: w :: words) = decodePayload .showImage h (some height) (imageNeed h height) words := by
  simp only [decode, hc, hh]

theorem decode_encode_drawString {x y : Byte} {text : List Byte} (hwf : text.length < 256) (rest : List Word) :
    decode (encode (.drawString x y text) ++ rest) = .ok (.drawString x y text, rest) := by
  have hlen : (fieldC (Instr.drawString x y text).header).toNat = text.length := by
    rw [Instr.header, fieldC_packHeader, BitVec.toNat_ofNat, Nat.mod_eq_of_lt hwf]
  refine decode_header_append (i := .drawString x y text) (words := packBytes text) nofun ?_ ?_ rest
  · rw [length_packBytes, ← hlen]
    rfl
  · rw [Instr.opcode, instrOf, hlen, take_payloadBytes_packBytes, Instr.header, fieldA_packHeader, fieldB_packHeader]

theorem decode_encode_showImage {x y width height : Byte} {data : List Byte} (h8 : height.toNat % 8 = 0)
    (hdata : data.length = imageBytes width height) (rest : List Word) :
    decode (encode (.showImage x y width height data) ++ rest) = .ok (.showImage x y width height data, rest) := by
  have hwidth : fieldC (Instr.showImage x y width height data).header = width := fieldC_packHeader ..
  rw [encode, List.cons_append, List.cons_append, decode_image (checkHeader_header _) (checkHeight_setWidth h8)]
  refine decodePayload_append ?_ ?_ rest
  · rw [imageNeed, hwidth, ← hdata, length_packBytes]
  · rw [instrOf, hwidth, ← hdata, take_payloadBytes_packBytes, Instr.header, fieldA_packHeader, fieldB_packHeader]

/-- Settles O2: the header gives the operands back, and the packed payload its bytes, by `prefix_payloadBytes_packBytes`. -/
theorem decodeInvertsEncode : Obligations.DecodeInvertsEncode := by
  intro i rest hwf
  cases i with
  | drawString x y text => exact decode_encode_drawString (of_decide_eq_true hwf) rest
  | showImage x y width height data =>
    rw [Instr.wf, Bool.and_eq_true, decide_eq_true_iff, decide_eq_true_iff] at hwf
    obtain ⟨h8, hdata⟩ := hwf
    exact decode_encode_showImage h8 hdata rest
  | drawNumber x y n digits =>
    refine decode_header_append (words := [n]) (by nofun) rfl ?_ rest
    simp only [Instr.opcode, Instr.header, instrOf, fieldA_packHeader, fieldB_packHeader, fieldC_packHeader]
  | drawPixels | drawChar | drawPixel | setCursor | lineTo =>
    refine decode_header_append (words := []) (by nofun) rfl ?_ rest
    simp only [Instr.opcode, Instr.header, instrOf, fieldA_packHeader, fieldB_packHeader, fieldC_packHeader]
  | nop | clearData | clearScreen | init | render => exact decode_header_append (words := []) (by nofun) rfl rfl rest

/-- Settles O1: each list of words is the encoding of its command, of which no pad byte is set. -/
theorem decodeReadsWrittenWords : Obligations.DecodeReadsWrittenWords :=
  ⟨decodeInvertsEncode .nop [] rfl, decodeInvertsEncode (.drawPixel 10 13) [] rfl,
    decodeInvertsEncode (.drawPixels 5 19 0xA5) [] rfl,
    decodeInvertsEncode (.drawString 0 0 [0x48, 0x45, 0x4C, 0x4C, 0x4F]) [] rfl,
    decodeInvertsEncode (.drawNumber 3 9 1234 4) [] rfl,
    decodeInvertsEncode (.showImage 10 0 2 16 [1, 2, 3, 4]) [] rfl, decodeInvertsEncode .clearData [] rfl,
    decodeInvertsEncode (.setCursor 3 4) [] rfl, decodeInvertsEncode (.lineTo 3 1) [] rfl⟩

/-! ### The header of a decoded command (R254) -/

/-- A field inside the reserved bits of a header without reserved bits set is 0. -/
theorem extractLsb'_eq_zero_of_mask {h mask : Word} (start len : Nat) (hfit : start + len ≤ 32)
    (hmask : h &&& mask = 0#32)
    (hin : mask &&& ((BitVec.allOnes len).setWidth 32 <<< start) = (BitVec.allOnes len).setWidth 32 <<< start) :
    h.extractLsb' start len = 0#len := by
  rw [← and_ones_shiftLeft_eq_zero_iff h hfit, ← hin, ← BitVec.and_assoc, hmask, BitVec.zero_and]

/-- A word that passes the checks of a header is its opcode and its three operand fields, packed. -/
theorem packHeader_of_checkHeader {h : Word} {op : Opcode} (hc : checkHeader h = .ok op) :
    packHeader op (fieldC h) (fieldB h) (fieldA h) = h := by
  obtain ⟨-, hmask⟩ := checkHeader_ok hc
  have hrsv : h.extractLsb' 24 4 = 0#4 :=
    extractLsb'_eq_zero_of_mask 24 4 (by decide) hmask (by cases op <;> rfl)
  have hsplit :
      h.extractLsb' 28 4 ++ h.extractLsb' 24 4 ++ h.extractLsb' 16 8 ++ h.extractLsb' 8 8 ++ h.extractLsb' 0 8 = h := by
    simp (disch := decide) only [BitVec.extractLsb'_append_extractLsb'_eq_extractLsb']
    exact BitVec.extractLsb'_eq_self
  rw [packHeader, ← opField_of_checkHeader hc, ← hrsv]
  exact hsplit

/-- The height and the number of payload words that a command with the checked header `h` takes (R104, R107, R109). -/
inductive TakesPayload (h : Word) : Opcode → Option Byte → Nat → Prop
  | header {op : Opcode} (himage : op ≠ .showImage) : TakesPayload h op none (headerNeed op h)
  | image {height : Byte} (h8 : height.toNat % 8 = 0) : TakesPayload h .showImage (some height) (imageNeed h height)

/-- The payload words a command takes make the command. -/
theorem TakesPayload.exists_instrOf {h : Word} {op : Opcode} {aux : Option Byte} {need : Nat} {ws : List Word}
    (htakes : TakesPayload h op aux need) (hlen : ws.length = need) : ∃ i, instrOf op h aux ws = some i := by
  cases htakes with
  | image h8 => exact ⟨_, rfl⟩
  | header himage =>
    cases op with
    | showImage => exact absurd rfl himage
    | drawNumber =>
      obtain ⟨n, rfl⟩ := List.length_eq_one_iff.mp hlen
      exact ⟨_, rfl⟩
    | _ => exact ⟨_, rfl⟩

theorem TakesPayload.wf_of_instrOf {h : Word} {op : Opcode} {aux : Option Byte} {need : Nat} {ws : List Word} {i : Instr}
    (htakes : TakesPayload h op aux need) (hlen : ws.length = need) (hinstr : instrOf op h aux ws = some i) :
    i.wf = true := by
  cases htakes with
  | image h8 =>
    obtain rfl := Option.some.inj hinstr
    have hbytes := le_length_payloadBytes hlen
    simp only [Instr.wf, h8, List.length_take, Nat.min_eq_left hbytes, decide_true, Bool.and_self]
  | header himage =>
    cases op with
    | showImage => exact absurd rfl himage
    | drawString =>
      obtain rfl := Option.some.inj hinstr
      exact decide_eq_true ((List.length_take_le _ _).trans_lt (fieldC h).isLt)
    | drawNumber =>
      obtain ⟨n, rfl⟩ := List.length_eq_one_iff.mp hlen
      obtain rfl := Option.some.inj hinstr
      rfl
    | _ =>
      obtain rfl := Option.some.inj hinstr
      rfl

theorem TakesPayload.header_of_instrOf {h : Word} {op : Opcode} {aux : Option Byte} {need : Nat} {ws : List Word}
    {i : Instr} (htakes : TakesPayload h op aux need) (hc : checkHeader h = .ok op) (hlen : ws.length = need)
    (hinstr : instrOf op h aux ws = some i) : i.header = h := by
  obtain ⟨-, hmask⟩ := checkHeader_ok hc
  have hpack := packHeader_of_checkHeader hc
  cases op with
  | nop | clearData | clearScreen | init | render =>
    obtain rfl := Option.some.inj hinstr
    have hC : fieldC h = 0 := extractLsb'_eq_zero_of_mask 16 8 (by decide) hmask rfl
    have hB : fieldB h = 0 := extractLsb'_eq_zero_of_mask 8 8 (by decide) hmask rfl
    have hA : fieldA h = 0 := extractLsb'_eq_zero_of_mask 0 8 (by decide) hmask rfl
    rwa [hC, hB, hA] at hpack
  | drawPixel | setCursor | lineTo =>
    obtain rfl := Option.some.inj hinstr
    have hC : fieldC h = 0 := extractLsb'_eq_zero_of_mask 16 8 (by decide) hmask rfl
    rwa [hC] at hpack
  | drawPixels | drawChar =>
    obtain rfl := Option.some.inj hinstr
    exact hpack
  | drawNumber =>
    cases htakes
    obtain ⟨n, rfl⟩ := List.length_eq_one_iff.mp hlen
    obtain rfl := Option.some.inj hinstr
    exact hpack
  | showImage =>
    cases htakes with
    | header himage => exact absurd rfl himage
    | image h8 =>
      obtain rfl := Option.some.inj hinstr
      exact hpack
  | drawString =>
    cases htakes
    obtain rfl := Option.some.inj hinstr
    have hbytes := le_length_payloadBytes hlen
    rw [Instr.header, List.length_take, Nat.min_eq_left hbytes, BitVec.ofNat_toNat, BitVec.setWidth_eq]
    exact hpack

/-- What the decoder makes of a list of words: it wants more of them, it refuses one of them whatever follows, or it
reads the payload after a checked header (and height), whatever that payload is. -/
theorem decode_cases (words : List Word) :
    decode words = .error .truncated ∨
      (∃ e, ∀ more, decode (words ++ more) = .error (.badWord e)) ∨
      ∃ h op aux need front ws, words = h :: front ++ ws ∧ checkHeader h = .ok op ∧ TakesPayload h op aux need ∧
        ∀ ws', decode (h :: front ++ ws') = decodePayload op h aux need ws' := by
  cases words with
  | nil => exact .inl rfl
  | cons h words =>
    cases hc : checkHeader h with
    | error e => exact .inr (.inl ⟨e, fun more => decode_of_checkHeader_error (words ++ more) hc⟩)
    | ok op =>
      by_cases himage : op = .showImage
      · subst himage
        cases words with
        | nil => exact .inl (by simp only [decode, hc])
        | cons w words =>
          cases hh : checkHeight w with
          | error e => exact .inr (.inl ⟨e, fun more => decode_showImage_of_checkHeight_error (words ++ more) hc hh⟩)
          | ok height =>
            obtain ⟨-, -, h8⟩ := checkHeight_ok hh
            exact .inr (.inr ⟨h, _, _, _, [w], words, rfl, hc, .image h8, decode_image hc hh⟩)
      · exact .inr (.inr ⟨h, op, _, _, [], words, rfl, hc, .header himage,
          fun ws => decode_of_checkHeader_ok ws hc himage⟩)

/-- What was decoded is a checked header and the payload it takes. -/
theorem decode_ok_cases {words rest : List Word} {i : Instr} (hd : decode words = .ok (i, rest)) :
    ∃ h op aux need ws, words.head? = some h ∧ checkHeader h = .ok op ∧ TakesPayload h op aux need ∧
      ws.length = need ∧ instrOf op h aux ws = some i := by
  rcases decode_cases words with hshort | ⟨e, hbad⟩ | ⟨h, op, aux, need, front, ws, rfl, hc, htakes, hpayload⟩
  · rw [hshort] at hd
    cases hd
  · rw [← List.append_nil words, hbad] at hd
    cases hd
  · rw [hpayload] at hd
    obtain ⟨hlen, hinstr, -⟩ := decodePayload_ok hd
    exact ⟨h, op, aux, need, ws.take need, rfl, hc, htakes, List.length_take_of_le hlen, hinstr⟩

/-- Settles O3: the header's reserved bits are 0, so the fields the command took are all that is in it. -/
theorem decodedCommandKeepsItsHeader : Obligations.DecodedCommandKeepsItsHeader := by
  intro words rest i hd
  obtain ⟨h, op, aux, need, ws, hhead, hc, htakes, hlen, hinstr⟩ := decode_ok_cases hd
  refine ⟨htakes.wf_of_instrOf hlen hinstr, ?_⟩
  rw [htakes.header_of_instrOf hc hlen hinstr, hhead]

/-! ### The match and the mask of a header (R104) -/

/-- The top four bits of a word are its `OP` field in place. -/
theorem and_opMask (w : Word) : w &&& 0xF0000000#32 = (opField w).setWidth 32 <<< 28 := by
  refine BitVec.eq_of_getLsbD_eq fun j hj => ?_
  have hmask : (0xF0000000#32).getLsbD j = decide (28 ≤ j) := by
    revert j
    decide
  rw [BitVec.getLsbD_and, hmask, BitVec.getLsbD_shiftLeft, BitVec.getLsbD_setWidth, opField, BitVec.getLsbD_extractLsb']
  grind

theorem opInPlace_inj {a b : BitVec 4} (h : a.setWidth 32 <<< 28 = b.setWidth 32 <<< 28) : a = b := by
  revert a b
  decide

theorem checkHeader_eq_ok_iff (w : Word) (op : Opcode) :
    checkHeader w = .ok op ↔ opField w = op.toBits ∧ w &&& op.rsvMask = 0#32 := by
  constructor
  · intro hc
    obtain ⟨-, hmask⟩ := checkHeader_ok hc
    exact ⟨opField_of_checkHeader hc, hmask⟩
  · rintro ⟨hop, hmask⟩
    rw [checkHeader_of_opField hop, if_pos hmask]

/-- Settles O4: the mask's two parts are disjoint, so the match fixes `OP` by the one and the reserved bits by the other. -/
theorem headerSelectsByMatchAndMask : Obligations.HeaderSelectsByMatchAndMask := by
  intro w op
  have hsplit : w &&& (0xF0000000#32 ||| op.rsvMask) = (w &&& 0xF0000000#32) ||| (w &&& op.rsvMask) :=
    BitVec.and_or_distrib_left
  rw [checkHeader_eq_ok_iff]
  constructor
  · rintro ⟨hop, hmask⟩
    rw [hsplit, hmask, and_opMask, hop, BitVec.or_zero]
  · intro hmatch
    have hfield (mask : Word) (hin : (0xF0000000#32 ||| op.rsvMask) &&& mask = mask) :
        w &&& mask = (op.toBits.setWidth 32 <<< 28) &&& mask := by
      rw [← hmatch, BitVec.and_assoc, hin]
    constructor
    · refine opInPlace_inj ?_
      rw [← and_opMask, hfield 0xF0000000#32 (by cases op <;> rfl)]
      cases op <;> rfl
    · rw [hfield op.rsvMask (by cases op <;> rfl)]
      cases op <;> rfl

end Sys2Proof
end

section
/-! Proofs about the parser (30_encoding.md section 5): the parser's move on a word says what the decoder makes of the words
so far (R120, R121), so the words of a command, taken one a step, run the command the decoder reads, and a part of them runs
nothing. -/

namespace Sys2Proof

/-! ### More words after a decoded list -/

theorem decodePayload_of_lt {need : Nat} {words : List Word} (hlt : words.length < need) (op : Opcode) (h : Word)
    (aux : Option Byte) : decodePayload op h aux need words = .error .truncated :=
  if_pos hlt

/-- Payload words are never inspected, so none of them is refused (R123). -/
theorem decodePayload_ne_badWord (op : Opcode) (h : Word) (aux : Option Byte) (need : Nat) (words : List Word)
    (e : WordError) : decodePayload op h aux need words ≠ .error (.badWord e) := by
  unfold decodePayload
  split
  · nofun
  · split <;> nofun

theorem decodePayload_append_of_ok {op : Opcode} {h : Word} {aux : Option Byte} {need : Nat} {words left : List Word}
    {i : Instr} (hd : decodePayload op h aux need words = .ok (i, left)) (more : List Word) :
    decodePayload op h aux need (words ++ more) = .ok (i, left ++ more) := by
  obtain ⟨hlen, hinstr, rfl⟩ := decodePayload_ok hd
  have hsplit : words ++ more = words.take need ++ (words.drop need ++ more) := by
    rw [← List.append_assoc, List.take_append_drop]
  rw [hsplit]
  exact decodePayload_append (List.length_take_of_le hlen) hinstr _

/-- A word the decoder refuses is refused whatever follows. -/
theorem decode_append_of_badWord {words : List Word} {e : WordError} (hd : decode words = .error (.badWord e))
    (more : List Word) : decode (words ++ more) = .error (.badWord e) := by
  rcases decode_cases words with hshort | ⟨e', hbad⟩ | ⟨h, op, aux, need, front, ws, rfl, -, -, hpayload⟩
  · rw [hshort] at hd
    cases hd
  · rw [← hd, hbad, ← List.append_nil words, hbad]
  · rw [hpayload] at hd
    exact absurd hd (decodePayload_ne_badWord op h aux need ws e)

/-- A whole command is decoded whatever follows, which is left. -/
theorem decode_append_of_ok {words left : List Word} {i : Instr} (hd : decode words = .ok (i, left))
    (more : List Word) : decode (words ++ more) = .ok (i, left ++ more) := by
  rcases decode_cases words with hshort | ⟨e, hbad⟩ | ⟨h, op, aux, need, front, ws, rfl, -, -, hpayload⟩
  · rw [hshort] at hd
    cases hd
  · rw [← List.append_nil words, hbad] at hd
    cases hd
  · rw [hpayload] at hd
    rw [List.append_assoc, hpayload]
    exact decodePayload_append_of_ok hd more

/-- A height word that passes its checks is the word the encoder writes for its height (R103). -/
theorem eq_setWidth_of_checkHeight {w : Word} {height : Byte} (hh : checkHeight w = .ok height) :
    height.setWidth 32 = w := by
  obtain ⟨hhigh, rfl, -⟩ := checkHeight_ok hh
  have hlow := toNat_extractLsb'_low_byte hhigh
  refine BitVec.eq_of_toNat_eq ?_
  rw [BitVec.toNat_setWidth, hlow, Nat.mod_eq_of_lt w.isLt]

namespace Machine

/-! ### The parser states of R120 -/

/-- A command in progress waits for its height word or for payload words, some of which have not come. -/
theorem Parse.cases_of_wf_collect {h : Word} {aux : Option Byte} {words : List Word} {need : Nat}
    (hwf : (Parse.collect h aux words need).wf = true) :
    (checkHeader h = .ok .showImage ∧ aux = none ∧ words = []) ∨
      ∃ op, checkHeader h = .ok op ∧ TakesPayload h op aux need ∧ words.length < need := by
  simp only [Parse.wf] at hwf
  split at hwf
  next => cases hwf
  next hc =>
    simp only [Bool.and_eq_true, decide_eq_true_iff] at hwf
    obtain ⟨⟨rfl, rfl⟩, hlt⟩ := hwf
    exact .inr ⟨_, hc, .header (by decide), hlt⟩
  next hc =>
    simp only [Bool.and_eq_true, decide_eq_true_iff] at hwf
    obtain ⟨⟨rfl, rfl⟩, hlt⟩ := hwf
    exact .inr ⟨_, hc, .header (op := .drawNumber) (by decide), hlt⟩
  next hc =>
    cases aux with
    | none =>
      simp only [Bool.and_eq_true, decide_eq_true_iff] at hwf
      obtain ⟨rfl, -⟩ := hwf
      exact .inl ⟨hc, rfl, rfl⟩
    | some height =>
      simp only [Bool.and_eq_true, decide_eq_true_iff] at hwf
      obtain ⟨⟨h8, rfl⟩, hlt⟩ := hwf
      exact .inr ⟨_, hc, .image h8, hlt⟩
  next => cases hwf

theorem Parse.wf_of_awaitsHeight {h : Word} (hc : checkHeader h = .ok .showImage) :
    (Parse.collect h none [] 0).wf = true := by
  simp [Parse.wf, hc]

theorem Parse.wf_of_takesPayload {h : Word} {op : Opcode} {aux : Option Byte} {words : List Word} {need : Nat}
    (hc : checkHeader h = .ok op) (htakes : TakesPayload h op aux need) (hlt : words.length < need) :
    (Parse.collect h aux words need).wf = true := by
  cases htakes with
  | image h8 => simp [Parse.wf, hc, h8, hlt]
  | header himage =>
    cases op with
    | drawString | drawNumber => simpa [Parse.wf, hc] using ⟨rfl, hlt⟩
    | showImage => exact absurd rfl himage
    | _ => cases hlt

/-- A command that waits for payload words does not wait for a height. -/
theorem not_awaitsHeight_of_takesPayload {h : Word} {op : Opcode} {aux : Option Byte} {need : Nat}
    (htakes : TakesPayload h op aux need) (hc : checkHeader h = .ok op) (words : List Word) (need' : Nat) :
    ¬ AwaitsHeight h (.collect h aux words need') := by
  rintro ⟨hop, n, hcollect⟩
  cases htakes with
  | image h8 => cases hcollect
  | header himage =>
    rw [opField_of_checkHeader hc] at hop
    revert himage hop
    cases op <;> decide

theorem pendingWords_append (h : Word) (aux : Option Byte) (words : List Word) (need : Nat) (w : Word) :
    pendingWords (.collect h aux words need) ++ [w] = pendingWords (.collect h aux (words ++ [w]) need) := by
  cases aux <;> rfl

/-- The decoder reads the words of a command in progress as the parser has collected them. -/
theorem decode_pendingWords_of_takesPayload {h : Word} {op : Opcode} {aux : Option Byte} {need : Nat}
    (htakes : TakesPayload h op aux need) (hc : checkHeader h = .ok op) (words : List Word) :
    decode (pendingWords (.collect h aux words need)) = decodePayload op h aux need words := by
  cases htakes with
  | header himage => exact decode_of_checkHeader_ok words hc himage
  | image h8 => exact decode_image hc (checkHeight_setWidth h8) words

/-- The words of a command in progress are not yet a command. -/
theorem decode_pendingWords_of_wf {p : Parse} (hwf : p.wf = true) : decode (pendingWords p) = .error .truncated := by
  cases p with
  | idle => rfl
  | collect h aux words need =>
    rcases Parse.cases_of_wf_collect hwf with ⟨hc, rfl, rfl⟩ | ⟨op, hc, htakes, hlt⟩
    · simp only [pendingWords, decode, hc]
    · rw [decode_pendingWords_of_takesPayload htakes hc, decodePayload_of_lt hlt]

/-! ### The parser's move and the decoder (R120, R121) -/

/-- What the parser's move says about the words so far: the command goes on, a word is refused, or they are a
whole command. -/
inductive MoveDecodes (words : List Word) : Move → Prop
  | goto {p : Parse} (hwf : p.wf = true) (hpending : pendingWords p = words) : MoveDecodes words (.goto p)
  | fault {e : WordError} (info : Word) (hd : decode words = .error (.badWord e)) :
      MoveDecodes words (.fault (causeOf e) info)
  | execute {h : Word} {op : Opcode} {aux : Option Byte} {ws : List Word} {i : Instr} (hc : checkHeader h = .ok op)
      (hinstr : instrOf op h aux ws = some i) (hd : decode words = .ok (i, [])) : MoveDecodes words (.execute h aux ws)

/-- With its last payload word the command is complete. -/
theorem moveDecodes_execute {h : Word} {op : Opcode} {aux : Option Byte} {need : Nat} {ws : List Word}
    (htakes : TakesPayload h op aux need) (hc : checkHeader h = .ok op) (hlen : ws.length = need) :
    MoveDecodes (pendingWords (.collect h aux ws need)) (.execute h aux ws) := by
  obtain ⟨i, hinstr⟩ := htakes.exists_instrOf hlen
  refine .execute hc hinstr ?_
  rw [decode_pendingWords_of_takesPayload htakes hc, ← List.append_nil ws, decodePayload_append hlen hinstr]

theorem moveDecodes_goto {h : Word} {op : Opcode} {aux : Option Byte} {need : Nat} {ws : List Word}
    (htakes : TakesPayload h op aux need) (hc : checkHeader h = .ok op) (hlt : ws.length < need) :
    MoveDecodes (pendingWords (.collect h aux ws need)) (.goto (.collect h aux ws need)) :=
  .goto (Parse.wf_of_takesPayload hc htakes hlt) rfl

theorem idleMove_of_showImage {w : Word} (hc : checkHeader w = .ok .showImage) :
    idleMove w = .goto (.collect w none [] 0) := by
  rw [idleMove, hc]

theorem idleMove_of_ok {w : Word} {op : Opcode} (hc : checkHeader w = .ok op) (himage : op ≠ .showImage) :
    idleMove w =
      if headerNeed op w = 0 then .execute w none [] else .goto (.collect w none [] (headerNeed op w)) := by
  cases op with
  | showImage => exact absurd rfl himage
  | _ => simp only [idleMove, hc]

theorem idleMove_decodes (w : Word) : MoveDecodes [w] (idleMove w) := by
  cases hc : checkHeader w with
  | error e =>
    rw [idleMove_of_error hc]
    exact .fault w (decode_of_checkHeader_error [] hc)
  | ok op =>
    by_cases himage : op = .showImage
    · subst himage
      rw [idleMove_of_showImage hc]
      exact .goto (Parse.wf_of_awaitsHeight hc) rfl
    · rw [idleMove_of_ok hc himage]
      split
      next hnone => exact moveDecodes_execute (.header himage) hc hnone.symm
      next hsome => exact moveDecodes_goto (.header himage) hc (Nat.pos_of_ne_zero hsome)

theorem heightMove_decodes {h : Word} (hc : checkHeader h = .ok .showImage) (w : Word) :
    MoveDecodes [h, w] (heightMove h w) := by
  cases hh : checkHeight w with
  | error e =>
    rw [heightMove_of_error hh]
    exact .fault h (decode_showImage_of_checkHeight_error [] hc hh)
  | ok height =>
    obtain ⟨-, -, h8⟩ := checkHeight_ok hh
    have hpending : [h, w] = pendingWords (.collect h (some height) [] (imageNeed h height)) := by
      rw [pendingWords, eq_setWidth_of_checkHeight hh]
    rw [heightMove, hh, hpending]
    dsimp only
    split
    next hnone => exact moveDecodes_execute (.image h8) hc hnone.symm
    next hsome => exact moveDecodes_goto (.image h8) hc (Nat.pos_of_ne_zero hsome)

theorem payloadMove_decodes {h : Word} {op : Opcode} {aux : Option Byte} {need : Nat} {words : List Word}
    (htakes : TakesPayload h op aux need) (hc : checkHeader h = .ok op) (hlt : words.length < need) (w : Word) :
    MoveDecodes (pendingWords (.collect h aux words need) ++ [w]) (payloadMove h aux words need w) := by
  rw [pendingWords_append, payloadMove]
  split
  next hlast => exact moveDecodes_execute htakes hc hlast
  next hmore =>
    refine moveDecodes_goto htakes hc (lt_of_le_of_ne ?_ hmore)
    rw [List.length_append, List.length_singleton]
    exact hlt

/-- In every parser state of R120 the parser and the decoder agree on the words so far and the next one. -/
theorem parserMove_decodes {p : Parse} (hwf : p.wf = true) (w : Word) :
    MoveDecodes (pendingWords p ++ [w]) (parserMove p w) := by
  cases p with
  | idle => exact idleMove_decodes w
  | collect h aux words need =>
    rcases Parse.cases_of_wf_collect hwf with ⟨hc, rfl, rfl⟩ | ⟨op, hc, htakes, hlt⟩
    · rw [parserMove_of_awaitsHeight ⟨opField_of_checkHeader hc, need, rfl⟩]
      exact heightMove_decodes hc w
    · rw [parserMove_of_not_awaitsHeight (not_awaitsHeight_of_takesPayload htakes hc words need)]
      exact payloadMove_decodes htakes hc hlt w

/-! ### The step on a word -/

/-- The state in which the command whose last word a step takes is executed. -/
def wordTaken (s : State) (rest : List HostEvent) : State := { s with hostQueue := rest, parse := .idle }

theorem step_of_parserMove_execute {s : State} {w h : Word} {rest : List HostEvent} {op : Opcode} {aux : Option Byte}
    {ws : List Word} {i : Instr} (hrun : s.fault = false) (hq : s.hostQueue = .word w :: rest)
    (hmove : parserMove s.parse w = .execute h aux ws) (hc : checkHeader h = .ok op)
    (hinstr : instrOf op h aux ws = some i) : step s = exec i (wordTaken s rest) := by
  rw [step_cons hq, ← execute_eq hc hinstr]
  simp [acceptEvent, acceptWord, hrun, hmove, wordTaken]

/-- What a step on a word does outside the fault state, told by the decoder. -/
theorem step_word_cases {s : State} {w : Word} {rest : List HostEvent} (hrun : s.fault = false)
    (hwf : s.parse.wf = true) (hq : s.hostQueue = .word w :: rest) :
    (∃ p, p.wf = true ∧ pendingWords p = pendingWords s.parse ++ [w] ∧
        step s = .next { s with parse := p, hostQueue := rest }) ∨
      (∃ e info, decode (pendingWords s.parse ++ [w]) = .error (.badWord e) ∧
        step s = .next (raise (causeOf e) info { s with hostQueue := rest })) ∨
      ∃ i, decode (pendingWords s.parse ++ [w]) = .ok (i, []) ∧ step s = exec i (wordTaken s rest) := by
  generalize hmove : parserMove s.parse w = m
  have hdecodes := parserMove_decodes hwf w
  rw [hmove] at hdecodes
  cases hdecodes with
  | goto hpwf hpending => exact .inl ⟨_, hpwf, hpending, step_of_parserMove_goto hrun hq hmove⟩
  | fault info hd => exact .inr (.inl ⟨_, info, hd, step_of_parserMove_fault hrun hq hmove⟩)
  | execute hc hinstr hd => exact .inr (.inr ⟨_, hd, step_of_parserMove_execute hrun hq hmove hc hinstr⟩)

/-- Settles O7: the height is refused with the header of the waiting image. -/
theorem imageHeightFaultsAtTheHeightWord : Obligations.ImageHeightFaultsAtTheHeightWord := by
  intro s h w rest hrun hwait hq hhigh h8
  rw [toNat_extractLsb'_low_byte hhigh] at h8
  exact step_of_checkHeight_error hrun hwait hq (checkHeight_eq_imageHeight hhigh h8)

/-- Settles O8: of the three things a step can do, the only one that goes with a whole command is its execution. -/
theorem stepRunsTheDecodedCommand : Obligations.StepRunsTheDecodedCommand := by
  intro s w rest i hrun hwf hq hd
  rcases step_word_cases hrun hwf hq with ⟨p, hpwf, hpending, -⟩ | ⟨e, info, hbad, -⟩ | ⟨i', hd', hstep⟩
  · rw [← hpending, decode_pendingWords_of_wf hpwf] at hd
    cases hd
  · rw [hbad] at hd
    cases hd
  · rw [hd'] at hd
    cases hd
    exact hstep

/-! ### Runs of words -/

theorem runSteps_one (s : State) : runSteps 1 s = step s := by
  rw [runSteps]
  cases step s <;> rfl

/-- The words that complete the command in progress run it. -/
theorem runSteps_of_decode_ok {words : List Word} {i : Instr} {rest : List HostEvent} {s : State}
    (hrun : s.fault = false) (hwf : s.parse.wf = true) (hd : decode (pendingWords s.parse ++ words) = .ok (i, []))
    (hq : s.hostQueue = words.map .word ++ rest) : runSteps words.length s = exec i (wordTaken s rest) := by
  induction words generalizing s with
  | nil =>
    rw [List.append_nil, decode_pendingWords_of_wf hwf] at hd
    cases hd
  | cons w words ih =>
    rw [List.append_cons] at hd
    rcases step_word_cases hrun hwf hq with ⟨p, hpwf, hpending, hstep⟩ | ⟨e, info, hbad, -⟩ | ⟨i', hd', hstep⟩
    · rw [← hpending] at hd
      exact (runSteps_succ_of_step hstep _).trans (ih hrun hpwf hd rfl)
    · rw [decode_append_of_badWord hbad] at hd
      cases hd
    · rw [decode_append_of_ok hd', List.nil_append] at hd
      cases hd
      exact (runSteps_one s).trans hstep

/-- Words that leave the command in progress incomplete move the parser only. -/
theorem runSteps_of_decode_truncated {words : List Word} {rest : List HostEvent} {s : State} (hrun : s.fault = false)
    (hwf : s.parse.wf = true) (hd : decode (pendingWords s.parse ++ words) = .error .truncated)
    (hq : s.hostQueue = words.map .word ++ rest) :
    ∃ p, runSteps words.length s = .next { s with parse := p, hostQueue := rest } := by
  induction words generalizing s with
  | nil =>
    rw [List.map_nil, List.nil_append] at hq
    exact ⟨s.parse, by rw [← hq]; rfl⟩
  | cons w words ih =>
    rw [List.append_cons] at hd
    rcases step_word_cases hrun hwf hq with ⟨p, hpwf, hpending, hstep⟩ | ⟨e, info, hbad, -⟩ | ⟨i', hd', -⟩
    · rw [← hpending] at hd
      obtain ⟨p', hsteps⟩ := ih (s := { s with parse := p, hostQueue := words.map .word ++ rest }) hrun hpwf hd rfl
      exact ⟨p', (runSteps_succ_of_step hstep _).trans hsteps⟩
    · rw [decode_append_of_badWord hbad] at hd
      cases hd
    · rw [decode_append_of_ok hd'] at hd
      cases hd

theorem Parse.wf_idle : Parse.idle.wf = true := rfl

/-- Settles O9: from Idle no word is pending, so the words are the whole command. -/
theorem wordsOfACommandRunIt : Obligations.WordsOfACommandRunIt := by
  intro s words i rest hrun hidle hd hq
  have htaken : wordTaken s rest = { s with hostQueue := rest } := by rw [wordTaken, ← hidle]
  rw [← htaken]
  exact runSteps_of_decode_ok hrun (by rw [hidle, Parse.wf_idle]) (by rwa [hidle]) hq

/-- Settles O10: from Idle no word is pending, and every step only moves the parser. -/
theorem partialCommandHasNoEffect : Obligations.PartialCommandHasNoEffect := by
  intro s words rest hrun hidle hd hq
  exact runSteps_of_decode_truncated hrun (by rw [hidle, Parse.wf_idle]) (by rwa [hidle]) hq

end Machine

end Sys2Proof
end

section
/-! Proofs about the steps of the machine: what no command touches (the parameters, the bus log and the dirty bits outside a
flush), reset (R280), and the invariant of the good states, which holds at reset and which every step keeps. -/

namespace Sys2Proof.Machine

/-! ### Commands that do not flush (R35, R43) -/

/-- The host's fields, the parameters and the bus log are the same, and no dirty bit is cleared. -/
structure NoFlush (s t : State) : Prop where
  host : SameHost s t
  busLog : t.busLog = s.busLog
  dirty : ∀ p, isDirty s.dirty p = true → isDirty t.dirty p = true

theorem SameHost.trans {s t u : State} (h : SameHost s t) (k : SameHost t u) : SameHost s u := by
  obtain ⟨hparams, hqueue, hlog, hepoch⟩ := h
  obtain ⟨kparams, kqueue, klog, kepoch⟩ := k
  exact ⟨kparams.trans hparams, kqueue.trans hqueue, klog.trans hlog, kepoch.trans hepoch⟩

theorem NoFlush.of_sameMask {s t : State} (hhost : SameHost s t) (hlog : t.busLog = s.busLog)
    (hmask : t.dirty = s.dirty) : NoFlush s t :=
  ⟨hhost, hlog, fun p hp => by rwa [hmask]⟩

theorem NoFlush.refl (s : State) : NoFlush s s := .of_sameMask ⟨rfl, rfl, rfl, rfl⟩ rfl rfl

theorem NoFlush.trans {s t u : State} (h : NoFlush s t) (k : NoFlush t u) : NoFlush s u :=
  ⟨h.host.trans k.host, k.busLog.trans h.busLog, fun p hp => k.dirty p (h.dirty p hp)⟩

theorem NoFlush.foldl {α : Type} {f : State → α → State} (hf : ∀ s a, NoFlush s (f s a)) (l : List α) (s : State) :
    NoFlush s (l.foldl f s) := by
  induction l generalizing s with
  | nil => exact .refl s
  | cons a rest ih => exact (hf s a).trans (ih _)

theorem NoFlush.of_raise (cause : Cause) (h : Word) (s : State) : NoFlush s (raise cause h s) :=
  .of_sameMask ⟨rfl, rfl, rfl, rfl⟩ rfl rfl

/-- A command that is one check, with a fault where the check fails. -/
theorem NoFlush.ite {P : Prop} [Decidable P] {s t : State} (ht : NoFlush s t) (cause : Cause) (h : Word) :
    NoFlush s (if P then t else raise cause h s) := by
  split
  · exact ht
  · exact .of_raise cause h s

theorem isDirty_or_of_isDirty {dirty : BitVec 8} {p : Nat} (hp : isDirty dirty p = true) (marks : BitVec 8) :
    isDirty (dirty ||| marks) p = true := by
  rw [isDirty, BitVec.getLsbD_or, Bool.or_eq_true]
  exact .inl hp

theorem plot_noFlush (X Y : Nat) (s : State) : NoFlush s (plot X Y s) := by
  obtain ⟨hhost, -, -, hlog⟩ := plot_onlyDrawn X Y s
  refine ⟨hhost, hlog, fun p hp => ?_⟩
  rw [plot_dirty]
  exact isDirty_or_of_isDirty hp _

theorem pixels_noFlush (x y : Nat) (v : Byte) (s : State) : NoFlush s (pixels x y v s) := by
  obtain ⟨hhost, -, -, hlog⟩ := pixels_onlyDrawn x y v s
  refine ⟨hhost, hlog, fun p hp => ?_⟩
  rw [pixels_dirty]
  split
  · exact isDirty_or_of_isDirty hp _
  · exact isDirty_or_of_isDirty (isDirty_or_of_isDirty hp _) _

theorem drawSlices_noFlush (h : Word) (slices : List Slice) (s : State) : NoFlush s (drawSlices h slices s) :=
  .ite (.foldl (f := drawSlice) (fun t sl => pixels_noFlush sl.x sl.y sl.v t) slices s) _ h

theorem drawText_noFlush (h : Word) (x y : Nat) (chars : List Byte) (s : State) :
    NoFlush s (drawText h x y chars s) :=
  .ite (drawSlices_noFlush h _ s) _ h

theorem zeroPages_noFlush (pages : List Nat) (s : State) : NoFlush s (zeroPages pages s) := by
  obtain ⟨hhost, -, -, hlog⟩ := zeroPages_onlyDrawn pages s
  exact .of_sameMask hhost hlog (zeroPages_dirty pages s)

theorem updateCursor_noFlush (v : Point) (s : State) : NoFlush s (updateCursor v s) :=
  .of_sameMask ⟨rfl, rfl, rfl, rfl⟩ rfl rfl

theorem exec_lineTo_noFlush (x y : Byte) (s : State) : ∃ t, exec (.lineTo x y) s = .next t ∧ NoFlush s t := by
  cases hcur : s.cur with
  | none => exact ⟨_, exec_lineTo_of_unset hcur x y, .of_raise _ _ s⟩
  | some q =>
    have hplots := NoFlush.foldl (f := plotPoint) (fun t _ => plot_noFlush _ _ t) (lineTo q x y)
    exact ⟨_, exec_lineTo_of_set hcur x y, .ite ((updateCursor_noFlush _ s).trans (hplots _)) _ _⟩

theorem exec_noFlush {i : Instr} (hi : usesBus i = false) (s : State) : ∃ t, exec i s = .next t ∧ NoFlush s t := by
  cases i with
  | init | render | clearData => cases hi
  | nop => exact ⟨_, exec_nop s, .refl s⟩
  | drawPixel x y => exact ⟨_, exec_drawPixel x y s, .ite (plot_noFlush _ _ s) _ _⟩
  | drawPixels x y v => exact ⟨_, exec_drawPixels x y v s, .ite (pixels_noFlush _ _ v s) _ _⟩
  | drawChar x y c => exact ⟨_, exec_drawChar x y c s, drawText_noFlush _ _ _ _ s⟩
  | drawString x y text => exact ⟨_, exec_drawString x y text s, drawText_noFlush _ _ _ _ s⟩
  | drawNumber x y n digits => exact ⟨_, exec_drawNumber x y n digits s, drawSlices_noFlush _ _ s⟩
  | showImage x y width height data => exact ⟨_, rfl, .ite (drawSlices_noFlush _ _ s) _ _⟩
  | clearScreen => exact ⟨_, exec_clearScreen s, zeroPages_noFlush _ s⟩
  | setCursor x y => exact ⟨_, exec_setCursor x y s, updateCursor_noFlush _ s⟩
  | lineTo x y => exact exec_lineTo_noFlush x y s

/-- Settles O21: every command that does not flush keeps the mask's bits. -/
theorem onlyFlushesClearDirtyBits : Obligations.OnlyFlushesClearDirtyBits := by
  intro i s p hi hp
  obtain ⟨t, hexec, hkept⟩ := exec_noFlush hi s
  exact ⟨t, hexec, hkept.dirty p hp⟩

/-! ### The commands that flush (R224) -/

theorem renderWith_sameHost (bus : Nat → BusResult) (s : State) : SameHost s (renderWith bus s) := by
  rw [renderWith_eq]
  exact ⟨rfl, rfl, rfl, rfl⟩

theorem initWith_sameHost (bus : Nat → BusResult) (s : State) : SameHost s (initWith bus s) := by
  rw [initWith_eq]
  exact ⟨rfl, rfl, rfl, rfl⟩

theorem initWith_busLog (bus : Nat → BusResult) (s : State) :
    (initWith bus s).busLog =
      s.busLog ++ initWrite s.params :: (List.range 8).flatMap fun p => pagePair s.params p (pageBytes s p) := by
  rw [initWith_eq]

/-- A flush appends to the log and keeps the host's fields and the parameters. -/
theorem exec_flush {i : Instr} (hi : usesBus i = true) (s : State) :
    ∃ t, exec i s = .next t ∧ SameHost s t ∧ ∃ more, t.busLog = s.busLog ++ more := by
  cases i with
  | init => exact ⟨_, exec_init s, initWith_sameHost _ s, _, initWith_busLog _ s⟩
  | render => exact ⟨_, exec_render s, renderWith_sameHost _ s, _, renderWith_busLog _ s⟩
  | clearData =>
    obtain ⟨hhost, -, -, -⟩ := zeroPages_onlyDrawn (dirtyPages s) s
    exact ⟨_, exec_clearData s, hhost.trans (renderWith_sameHost _ _), _, clearData_busLog _ s⟩
  | _ => cases hi

/-- Settles O20: the two classes of commands. -/
theorem onlyFlushingCommandsUseTheBus : Obligations.OnlyFlushingCommandsUseTheBus := by
  intro i s
  cases hi : usesBus i with
  | true =>
    obtain ⟨t, hexec, -, hlog⟩ := exec_flush hi s
    exact ⟨t, hexec, hlog, nofun⟩
  | false =>
    obtain ⟨t, hexec, hkept⟩ := exec_noFlush hi s
    exact ⟨t, hexec, ⟨[], by rw [hkept.busLog, List.append_nil]⟩, fun _ => hkept.busLog⟩

/-! ### The parameters (R8, R37) -/

theorem exec_sameHost (i : Instr) (s : State) : ∃ t, exec i s = .next t ∧ SameHost s t := by
  cases hi : usesBus i with
  | true =>
    obtain ⟨t, hexec, hhost, -⟩ := exec_flush hi s
    exact ⟨t, hexec, hhost⟩
  | false =>
    obtain ⟨t, hexec, hkept⟩ := exec_noFlush hi s
    exact ⟨t, hexec, hkept.host⟩

/-- `Execute` answers only by a command (R121). -/
theorem exec_of_execute {h : Word} {aux : Option Byte} {ws : List Word} {s t : State}
    (hexecute : execute h aux ws s = .next t) : ∃ i, exec i s = .next t := by
  unfold execute at hexecute
  split at hexecute
  · cases hexecute
  · split at hexecute
    · cases hexecute
    next i _ => exact ⟨i, hexecute⟩

theorem acceptWord_params {w : Word} {s t : State} (hstep : acceptWord w s = .next t) : t.params = s.params := by
  unfold acceptWord at hstep
  split at hstep
  · cases hstep
    rfl
  · split at hstep
    · cases hstep
      rfl
    · cases hstep
      rfl
    · obtain ⟨i, hexec⟩ := exec_of_execute hstep
      obtain ⟨t', hexec', hparams, -⟩ := exec_sameHost i { s with parse := .idle }
      rw [hexec] at hexec'
      cases hexec'
      exact hparams

/-- Settles O18: a word, a read and a reset one by one, each on the state with that action taken. -/
theorem stepKeepsTheParameters : Obligations.StepKeepsTheParameters := by
  intro s t hstep
  cases hq : s.hostQueue with
  | nil =>
    rw [step_nil hq] at hstep
    cases hstep
    rfl
  | cons e rest =>
    rw [step_cons hq] at hstep
    cases e with
    | word w => exact acceptWord_params (s := { s with hostQueue := rest }) hstep
    | read a =>
      cases hstep
      rfl
    | reset =>
      cases hstep
      rfl

/-! ### Reset (R280) -/

/-- A cell that nothing has written since reset is a free draw (R30). -/
theorem fbRead_of_unwritten {s : State} (hfb : s.fb = []) (p c : Nat) :
    fbRead s p c = Config.fbReset s.epoch (128 * p + c) := by
  rw [fbRead, hfb]
  rfl

/-- Settles O14: the step on the signal is `applyReset`, whose memory is empty, and so is that of the state after reset. -/
theorem resetRestoresEveryRegister : Obligations.ResetRestoresEveryRegister := by
  refine ⟨fun s rest hq => ⟨applyReset { s with hostQueue := rest }, step_cons hq, fun p _ c _ => ?_, rfl, rfl, rfl, rfl,
    rfl, rfl, rfl, rfl, rfl, rfl⟩, fun p _ c _ => fbRead_of_unwritten rfl p c, rfl, rfl, rfl, rfl, rfl, rfl, rfl, rfl, rfl⟩
  exact fbRead_of_unwritten (applyReset_fb _) p c

/-! ### The invariant at reset -/

/-- Reset values are good beside any parameters R8 admits, whatever the host has done and will do. -/
theorem inv_of_reset_values {params : Params} (hparams : params.Wf) (queue : List HostEvent)
    (log : List (BitVec 12 × Word)) (epoch : Nat) :
    Inv { State.reset with params := params, hostQueue := queue, readLog := log, epoch := epoch } where
  params := hparams
  memory := reset_memory_wf
  parse := Parse.wf_idle
  cursors := nofun
  running := fun _ => ⟨rfl, rfl⟩
  faulted := nofun
  bus := .empty

/-- Settles O15: the opaque parameters stay within R8's bounds. -/
theorem resetIsGood : Obligations.ResetIsGood := inv_of_reset_values config_params_wf [] [] 0

/-! ### What keeps the invariant -/

/-- The host's side is no part of it. -/
theorem Inv.of_host {s : State} (hs : Inv s) (queue : List HostEvent) (log : List (BitVec 12 × Word)) :
    Inv { s with hostQueue := queue, readLog := log } :=
  ⟨hs.params, hs.memory, hs.parse, hs.cursors, hs.running, hs.faulted, hs.bus⟩

/-- Without a fault the parser may go to any state R120 makes. -/
theorem Inv.of_parse {s : State} (hs : Inv s) (hrun : s.fault = false) {p : Parse} (hwf : p.wf = true) :
    Inv { s with parse := p } where
  params := hs.params
  memory := hs.memory
  parse := hwf
  cursors := hs.cursors
  running := hs.running
  faulted := fun hfault => by
    rw [hrun] at hfault
    cases hfault
  bus := hs.bus

theorem Inv.raise {s : State} (hs : Inv s) (cause : Cause) (h : Word) : Inv (raise cause h s) where
  params := hs.params
  memory := hs.memory
  parse := Parse.wf_idle
  cursors := hs.cursors
  running := nofun
  faulted := fun _ => ⟨cause.code_range.1, cause.code_range.2, rfl⟩
  bus := hs.bus

/-- A command that is one check, with a fault where the check fails. -/
theorem Inv.ite {P : Prop} [Decidable P] {s t : State} (hs : Inv s) (ht : P → Inv t) (cause : Cause) (h : Word) :
    Inv (if P then t else Machine.raise cause h s) := by
  split
  next hcheck => exact ht hcheck
  next => exact hs.raise cause h

/-- A drawing keeps everything but the cells and the mask, so only its cells matter. -/
theorem Inv.of_onlyDrawn {s t : State} (hs : Inv s) (hdrawn : OnlyDrawn s t) (hmemory : Memory.wf t.fb) : Inv t := by
  obtain ⟨⟨hparams, -, -, -⟩, ⟨hparse, hfault, hcause, hinfo⟩, ⟨hcur, hprev⟩, hlog⟩ := hdrawn
  refine ⟨?_, hmemory, ?_, ?_, ?_, ?_, ?_⟩
  · exact hparams ▸ hs.params
  · exact hparse ▸ hs.parse
  · rw [hcur, hprev]
    exact hs.cursors
  · rw [hfault, hcause, hinfo]
    exact hs.running
  · rw [hfault, hcause, hparse]
    exact hs.faulted
  · rw [hparams, hlog]
    exact hs.bus

theorem Inv.updateCursor {s : State} (hs : Inv s) (v : Point) : Inv (updateCursor v s) :=
  ⟨hs.params, hs.memory, hs.parse, fun _ => rfl, hs.running, hs.faulted, hs.bus⟩

theorem Inv.drawSlices {s : State} (hs : Inv s) (h : Word) (slices : List Slice) : Inv (drawSlices h slices s) :=
  hs.ite (fun hrange => hs.of_onlyDrawn (foldl_drawSlice_onlyDrawn slices s) (foldl_drawSlice_wf hs.memory hrange)) _ h

theorem Inv.drawText {s : State} (hs : Inv s) (h : Word) (x y : Nat) (chars : List Byte) :
    Inv (drawText h x y chars s) :=
  hs.ite (fun _ => hs.drawSlices h _) _ h

theorem zeroPages_wf {pages : List Nat} {s : State} (hmemory : Memory.wf s.fb) (hpages : ∀ p ∈ pages, p < 8) :
    Memory.wf (zeroPages pages s).fb := by
  induction pages generalizing s with
  | nil => exact hmemory
  | cons p pages ih =>
    obtain ⟨hp, hrest⟩ := List.forall_mem_cons.mp hpages
    exact ih (zeroPage_wf hmemory hp) hrest

theorem Inv.zeroPages {s : State} (hs : Inv s) {pages : List Nat} (hpages : ∀ p ∈ pages, p < 8) :
    Inv (zeroPages pages s) :=
  hs.of_onlyDrawn (zeroPages_onlyDrawn pages s) (zeroPages_wf hs.memory hpages)

/-- A point that passes the check has its raw row inside the buffer, by R8 also where its own row is negative. -/
theorem rawY_lt_of_pointInRange {params : Params} {u : Int × Int} (hwf : params.Wf)
    (hin : pointInRange params u = true) : rawY params u.2.toNat < 64 := by
  obtain ⟨-, horigin, -⟩ := hwf
  obtain ⟨-, hrow⟩ := (pointInRange_iff params u).mp hin
  rw [rawY]
  omega

theorem foldl_plotPoint_wf {points : List (Int × Int)} {s : State} (hwf : s.params.Wf) (hmemory : Memory.wf s.fb)
    (hin : ∀ u ∈ points, pointInRange s.params u = true) : Memory.wf (points.foldl plotPoint s).fb := by
  induction points generalizing s with
  | nil => exact hmemory
  | cons u points ih =>
    obtain ⟨hu, hrest⟩ := List.forall_mem_cons.mp hin
    exact ih hwf (plot_wf hmemory (rawX_lt_of_pointInRange hwf hu) (rawY_lt_of_pointInRange hwf hu)) hrest

/-- The cursor moves and the checked points are plotted. -/
theorem Inv.exec_lineTo {s : State} (hs : Inv s) (x y : Byte) : ∃ t, exec (.lineTo x y) s = .next t ∧ Inv t := by
  cases hcur : s.cur with
  | none => exact ⟨_, exec_lineTo_of_unset hcur x y, hs.raise _ _⟩
  | some q =>
    refine ⟨_, exec_lineTo_of_set hcur x y, hs.ite (fun hin => ?_) _ _⟩
    exact (hs.updateCursor _).of_onlyDrawn (foldl_plotPoint_onlyDrawn _ _) (foldl_plotPoint_wf hs.params hs.memory hin)

/-- The log of a flush is whole page pairs (R221, R226). -/
theorem BusShape.pages {params : Params} {log : List BusWrite} (hlog : BusShape params log) {pages : List Nat}
    {content : Nat → List Byte} (hpages : ∀ p ∈ pages, p < 8) (hcontent : ∀ p, (content p).length = 128) :
    BusShape params (log ++ pages.flatMap fun p => pagePair params p (content p)) := by
  induction pages generalizing log with
  | nil => rwa [List.flatMap_nil, List.append_nil]
  | cons p pages ih =>
    obtain ⟨hp, hrest⟩ := List.forall_mem_cons.mp hpages
    rw [List.flatMap_cons, ← List.append_assoc]
    exact ih (.page p (content p) hlog hp (hcontent p)) hrest

/-- Nothing but the log asks for the mask or the log. -/
theorem Inv.of_flushed {s : State} (hs : Inv s) (dirty : BitVec 8) {log : List BusWrite}
    (hlog : BusShape s.params log) : Inv { s with dirty := dirty, busLog := log } :=
  ⟨hs.params, hs.memory, hs.parse, hs.cursors, hs.running, hs.faulted, hlog⟩

theorem lt_of_mem_dirtyPages {s : State} {p : Nat} (hp : p ∈ dirtyPages s) : p < 8 :=
  List.mem_range.mp (List.mem_of_mem_filter hp)

theorem Inv.renderWith {s : State} (hs : Inv s) (bus : Nat → BusResult) : Inv (renderWith bus s) := by
  rw [renderWith_eq_dirtyPages]
  exact hs.of_flushed _ (hs.bus.pages (fun _ hp => lt_of_mem_dirtyPages hp) (length_pageBytes s))

theorem Inv.initWith {s : State} (hs : Inv s) (bus : Nat → BusResult) : Inv (initWith bus s) := by
  rw [initWith_eq, List.append_cons]
  exact hs.of_flushed _ (hs.bus.burst.pages (fun _ hp => List.mem_range.mp hp) (length_pageBytes s))

/-- Every command answers a good state from a good one. -/
theorem Inv.exec {s : State} (hs : Inv s) (i : Instr) : ∃ t, exec i s = .next t ∧ Inv t := by
  cases i with
  | nop => exact ⟨_, exec_nop s, hs⟩
  | drawPixel x y =>
    exact ⟨_, exec_drawPixel x y s,
      hs.ite (fun ⟨hx, hy⟩ => hs.of_onlyDrawn (plot_onlyDrawn _ _ s) (plot_wf hs.memory hx hy)) _ _⟩
  | drawPixels x y v => exact ⟨_, rfl, hs.drawSlices _ _⟩
  | drawChar x y c => exact ⟨_, exec_drawChar x y c s, hs.drawText _ _ _ _⟩
  | drawString x y text => exact ⟨_, exec_drawString x y text s, hs.drawText _ _ _ _⟩
  | drawNumber x y n digits => exact ⟨_, exec_drawNumber x y n digits s, hs.drawSlices _ _⟩
  | showImage x y width height data => exact ⟨_, rfl, hs.ite (fun _ => hs.drawSlices _ _) _ _⟩
  | clearData =>
    exact ⟨_, exec_clearData s, (hs.zeroPages fun _ hp => lt_of_mem_dirtyPages hp).renderWith _⟩
  | clearScreen => exact ⟨_, exec_clearScreen s, hs.zeroPages fun _ hp => List.mem_range.mp hp⟩
  | init => exact ⟨_, exec_init s, hs.initWith _⟩
  | render => exact ⟨_, exec_render s, hs.renderWith _⟩
  | setCursor x y => exact ⟨_, exec_setCursor x y s, hs.updateCursor _⟩
  | lineTo x y => exact hs.exec_lineTo x y

/-! ### Every step -/

/-- A word is discarded in the fault state, and else does one of the three things of `step_word_cases`. -/
theorem Inv.step_word {s : State} (hs : Inv s) {w : Word} {rest : List HostEvent} (hq : s.hostQueue = .word w :: rest) :
    ∃ t, step s = .next t ∧ Inv t := by
  have htaken : Inv { s with hostQueue := rest } := hs.of_host rest s.readLog
  cases hfault : s.fault with
  | true => exact ⟨_, step_of_word_faulted hfault hq, htaken⟩
  | false =>
    rcases step_word_cases hfault hs.parse hq with ⟨p, hpwf, -, hstep⟩ | ⟨e, info, -, hstep⟩ | ⟨i, -, hstep⟩
    · exact ⟨_, hstep, htaken.of_parse hfault hpwf⟩
    · exact ⟨_, hstep, htaken.raise _ info⟩
    · rw [hstep]
      exact (htaken.of_parse hfault Parse.wf_idle).exec i

theorem Inv.step {s : State} (hs : Inv s) : ∃ t, step s = .next t ∧ Inv t := by
  cases hq : s.hostQueue with
  | nil => exact ⟨s, step_nil hq, hs⟩
  | cons e rest =>
    cases e with
    | word w => exact hs.step_word hq
    | read a => exact ⟨_, step_of_read hq, hs.of_host rest _⟩
    | reset => exact ⟨_, step_cons hq, inv_of_reset_values hs.params rest s.readLog _⟩

/-- Settles O16: a good state's step answers a next state, and a good one. -/
theorem stepKeepsGoodStates : Obligations.StepKeepsGoodStates := by
  intro s t hs hstep
  obtain ⟨t', hstep', ht'⟩ := hs.step
  rw [hstep] at hstep'
  cases hstep'
  exact ht'

/-- Settles O17, by induction on the number of steps. -/
theorem goodRunsNeverStop : Obligations.GoodRunsNeverStop := by
  intro k
  induction k with
  | zero => exact fun s hs => ⟨s, rfl, hs⟩
  | succ k ih =>
    intro s hs
    obtain ⟨t, hstep, ht⟩ := hs.step
    obtain ⟨u, hrun, hu⟩ := ih t ht
    exact ⟨u, (runSteps_succ_of_step hstep k).trans hrun, hu⟩

end Sys2Proof.Machine
end

section
/-! Proofs about slices on blank cells (R145), the glyph table (R42), numbers drawn as strings (R165), a second `RENDER` and
the boot order (44_transport.md section 3, 70_reset_and_hazards.md section 2). -/

namespace Sys2Proof.Machine

/-! ### Unaligned slices (R145) -/

/-- The two parts of a split byte, each shifted back, are the byte. -/
theorem shift_parts_recombine (v : Byte) {k : Nat} (hk : k ≤ 8) :
    (v <<< k >>> k) ||| (v >>> (8 - k) <<< (8 - k)) = v := by
  refine BitVec.eq_of_getLsbD_eq fun j hj => ?_
  simp only [BitVec.getLsbD_or, BitVec.getLsbD_ushiftRight, BitVec.getLsbD_shiftLeft]
  by_cases hlow : j < 8 - k
  · have hcancel : k + j - k = j := by omega
    have hin : k + j < 8 := by omega
    simp [hlow, hcancel, hin]
  · have hcancel : 8 - k + (j - (8 - k)) = j := by omega
    have hout : ¬ k + j < 8 := by omega
    simp [hlow, hcancel, hout, hj]

/-- Settles O25: on blank cells the OR writes the shifted parts themselves. -/
theorem unalignedSliceRecombines : Obligations.UnalignedSliceRecombines := by
  intro x y v s hrange
  obtain ⟨hx, -⟩ := (sliceInRange_iff_rows x y v).mp hrange
  refine ⟨fun haligned => ?_, fun hsplit hupper hlower => ?_⟩
  · rw [fbRead_pixels x y v s _ x hx hx, if_pos ⟨rfl, rfl⟩, if_pos haligned]
  · have hbelow : ¬ (x = x ∧ y / 8 + 1 = y / 8) := by omega
    rw [fbRead_pixels x y v s _ x hx hx, if_pos ⟨rfl, rfl⟩, if_neg hsplit, hupper, fbRead_pixels x y v s _ x hx hx,
      if_neg hbelow, if_pos ⟨rfl, rfl, hsplit⟩, hlower]
    simp only [BitVec.ofNat_eq_ofNat, BitVec.zero_or]
    exact shift_parts_recombine v (Nat.mod_lt y (by decide)).le

/-! ### The glyph table (R42) -/

/-- Settles O29: R8 gives the table as many entries as there are characters in range. -/
theorem glyphByteReadsTheTable : Obligations.GlyphByteReadsTheTable := by
  intro params c hwf hc
  obtain ⟨-, -, -, hlen, -⟩ := hwf
  obtain ⟨hlow, hhigh⟩ := (charInRange_iff params c).mp hc
  have hindex : c.toNat - 0x20 < params.glyphRom.length := by omega
  have hentry : params.glyphRom[c.toNat - 0x20]? = some params.glyphRom[c.toNat - 0x20] :=
    List.getElem?_eq_getElem hindex
  refine ⟨_, hentry, fun k hk => ?_⟩
  simp [glyphByte, hentry, hk]

/-! ### Numbers as strings (R165) -/

/-- The characters of a number are `'0'` to `'9'`. -/
theorem toNat_of_mem_numberChars {n digits : Nat} {c : Byte} (hc : c ∈ numberChars n digits) :
    0x30 ≤ c.toNat ∧ c.toNat ≤ 0x39 := by
  obtain ⟨i, -, rfl⟩ := List.mem_map.mp hc
  have hdigit : digit n digits i < 10 := Nat.mod_lt _ (by decide)
  rw [BitVec.toNat_ofNat]
  omega

/-- Every glyph table R8 admits has the digits. -/
theorem range_of_mem_numberChars {params : Params} (hwf : params.Wf) {n digits : Nat} {c : Byte}
    (hc : c ∈ numberChars n digits) : 0x20 ≤ c.toNat ∧ c.toNat ≤ params.glyphLast.toNat := by
  obtain ⟨-, -, hlast, -, -⟩ := hwf
  obtain ⟨hlow, hhigh⟩ := toNat_of_mem_numberChars hc
  omega

/-- The header of a command is asked only where its slices are out of range. -/
theorem drawSlices_eq_of_inRange {slices : List Slice} (hrange : slices.all sliceInRange = true) (h h' : Word)
    (s : State) : drawSlices h slices s = drawSlices h' slices s := by
  rw [drawSlices, drawSlices, if_pos hrange, if_pos hrange]

/-- Settles O34: the characters' check of the string passes, and both draw the slices of the same text. -/
theorem drawNumberIsDrawString : Obligations.DrawNumberIsDrawString := by
  intro x y n digits s hwf
  refine ⟨fun c hc => ?_, fun hx hy => ?_⟩
  · obtain ⟨hlow, hhigh⟩ := toNat_of_mem_numberChars hc
    exact ⟨hlow, hhigh, (charInRange_iff s.params c).mpr (range_of_mem_numberChars hwf hc)⟩
  · rw [exec_drawNumber, exec_drawString, drawText_of_chars _ _ _ fun c hc => range_of_mem_numberChars hwf hc]
    refine congrArg _ (drawSlices_eq_of_inRange ?_ _ _ s)
    rw [all_sliceInRange_textSlices_iff, length_numberChars]
    exact .inr ⟨hx, hy⟩

/-! ### A second flush (R224) -/

theorem dirtyPages_of_clean {s : State} (hclean : s.dirty = 0x00#8) : dirtyPages s = [] := by
  rw [dirtyPages, hclean]
  decide

/-- With the mask 0 there is nothing to send and nothing to clear. -/
theorem renderWith_of_clean {s : State} (hclean : s.dirty = 0x00#8) (bus : Nat → BusResult) : renderWith bus s = s := by
  rw [renderWith_eq_dirtyPages, dirtyPages_of_clean hclean, List.flatMap_nil, List.append_nil, ← hclean]

/-- Settles O40: the first flush leaves the mask 0. -/
theorem secondRenderSendsNothing : Obligations.SecondRenderSendsNothing := by
  intro s t hfirst
  rw [exec_render] at hfirst
  cases hfirst
  rw [exec_render, renderWith_of_clean (renderWith_dirty _ s)]

/-! ### The boot order -/

theorem initWith_dirty (bus : Nat → BusResult) (s : State) : (initWith bus s).dirty = 0x00#8 := rfl

theorem pageBytes_zeroPages_all (s : State) {p : Nat} (hp : p < 8) :
    pageBytes (zeroPages (List.range 8) s) p = List.replicate 128 0 :=
  pageBytes_of_zero fun _ hc => fbRead_zeroPages_all s hp hc

/-- Settles O53: the pages `INIT` sends are the zeroed ones, and neither it nor the cursor writes a cell. -/
theorem bootOrderSendsABlankBuffer : Obligations.BootOrderSendsABlankBuffer := by
  intro x y s
  obtain ⟨⟨hparams, -, -, -⟩, -, -, hlog⟩ := zeroPages_onlyDrawn (List.range 8) s
  refine ⟨_, _, _, exec_clearScreen s, exec_init _, exec_setCursor x y _, fun p hp c hc => ?_,
    by rw [updateCursor_dirty, initWith_dirty], updateCursor_cur _ _, ?_⟩
  · rw [fbRead_congr (updateCursor_fb _ _) (updateCursor_epoch _ _), fbRead_congr (initWith_fb _ _) (initWith_epoch _ _),
      fbRead_zeroPages_all s hp hc]
  · rw [updateCursor_busLog, initWith_busLog, hlog, hparams]
    refine congrArg _ (congrArg _ (List.flatMap_congr fun p hp => ?_))
    rw [pageBytes_zeroPages_all s (List.mem_range.mp hp)]

end Sys2Proof.Machine
end

section
/-! Proofs about the points of a line (43_raster_line.md section 1): the loop of R200 walks a staircase along the longer
coordinate, one step of it a round, and so ends at the second end of the line; and what that makes of `LINE_TO` (R204). -/

namespace Sys2Proof.Machine

/-! ### The loop of `LinePoints` (R200) -/

theorem lineLoop_stop (x1 y1 dx dy sx sy : Int) (fuel : Nat) (err : Int) :
    lineLoop x1 y1 dx dy sx sy (fuel + 1) err x1 y1 = [(x1, y1)] := by
  rw [lineLoop, if_pos ⟨rfl, rfl⟩]

/-- A round that moves both coordinates. -/
theorem lineLoop_diagonal {x1 y1 dx dy err x y : Int} (hne : ¬ (x = x1 ∧ y = y1)) (hx : 2 * err ≥ dy)
    (hy : 2 * err ≤ dx) (sx sy : Int) (fuel : Nat) :
    lineLoop x1 y1 dx dy sx sy (fuel + 1) err x y =
      (x, y) :: lineLoop x1 y1 dx dy sx sy fuel (err + dy + dx) (x + sx) (y + sy) := by
  rw [lineLoop, if_neg hne, if_pos hx, if_pos hx, if_pos hy, if_pos hy]

/-- A round that moves the column only. -/
theorem lineLoop_straight {x1 y1 dx dy err x y : Int} (hne : ¬ (x = x1 ∧ y = y1)) (hx : 2 * err ≥ dy)
    (hy : ¬ 2 * err ≤ dx) (sx sy : Int) (fuel : Nat) :
    lineLoop x1 y1 dx dy sx sy (fuel + 1) err x y =
      (x, y) :: lineLoop x1 y1 dx dy sx sy fuel (err + dy) (x + sx) y := by
  rw [lineLoop, if_neg hne, if_pos hx, if_pos hx, if_neg hy, if_neg hy, Int.add_zero]

/-- A loop that has come to the second end is over, however many rounds it still has. -/
theorem lineLoop_add_fuel {x1 y1 dx dy sx sy : Int} {fuel : Nat} {err x y : Int}
    (hend : (x1, y1) ∈ lineLoop x1 y1 dx dy sx sy fuel err x y) (more : Nat) :
    lineLoop x1 y1 dx dy sx sy (fuel + more) err x y = lineLoop x1 y1 dx dy sx sy fuel err x y := by
  induction fuel generalizing err x y with
  | zero => cases hend
  | succ fuel ih =>
    rw [Nat.add_right_comm]
    by_cases hstop : x = x1 ∧ y = y1
    · obtain ⟨rfl, rfl⟩ := hstop
      rw [lineLoop_stop, lineLoop_stop]
    · rw [lineLoop, if_neg hstop, List.mem_cons, Prod.mk.injEq] at hend
      rw [lineLoop, lineLoop, if_neg hstop, if_neg hstop]
      rcases hend with ⟨rfl, rfl⟩ | hend
      · exact absurd ⟨rfl, rfl⟩ hstop
      · rw [ih hend]

/-- The loop treats the two coordinates alike, with the error's sign turned. -/
theorem lineLoop_swap (x1 y1 dx dy sx sy : Int) (fuel : Nat) (err x y : Int) :
    lineLoop x1 y1 dx dy sx sy fuel err x y =
      (lineLoop y1 x1 (-dy) (-dx) sy sx fuel (-err) y x).map Prod.swap := by
  induction fuel generalizing err x y with
  | zero => rfl
  | succ fuel ih =>
    have hcolumn : 2 * -err ≤ -dy ↔ 2 * err ≥ dy := by omega
    have hrow : 2 * -err ≥ -dx ↔ 2 * err ≤ dx := by omega
    have herr : -(err + (if 2 * err ≥ dy then dy else 0) + (if 2 * err ≤ dx then dx else 0)) =
        -err + (if 2 * err ≤ dx then -dx else 0) + (if 2 * err ≥ dy then -dy else 0) := by
      split <;> split <;> omega
    rw [lineLoop, lineLoop]
    simp only [hcolumn, hrow, and_comm (a := y = y1), List.map_cons, Prod.swap_prod_mk]
    split
    · rfl
    · rw [ih, herr]

theorem linePoints_swap (x0 y0 x1 y1 : Int) : linePoints x0 y0 x1 y1 = (linePoints y0 x0 y1 x1).map Prod.swap := by
  have hfuel : (x1 - x0).natAbs + (y1 - y0).natAbs + 1 = (y1 - y0).natAbs + (x1 - x0).natAbs + 1 := by omega
  have herr : -(((x1 - x0).natAbs : Int) + -(y1 - y0).natAbs) = (y1 - y0).natAbs + -(x1 - x0).natAbs := by omega
  rw [linePoints, linePoints, lineLoop_swap, hfuel, herr, Int.neg_neg]

/-! ### Staircases -/

/-- The point `m` columns and `n` rows before the end. -/
def pointBefore (x1 y1 sx sy : Int) (m n : Nat) : Int × Int := (x1 - sx * m, y1 - sy * n)

/-- A walk of `m` steps, each one column on and at most one row on, over `n` rows to the end. -/
inductive Staircase (x1 y1 sx sy : Int) : Nat → Nat → List (Int × Int) → Prop
  | stop : Staircase x1 y1 sx sy 0 0 [(x1, y1)]
  | straight {m n : Nat} {l : List (Int × Int)} (hl : Staircase x1 y1 sx sy m n l) :
      Staircase x1 y1 sx sy (m + 1) n (pointBefore x1 y1 sx sy (m + 1) n :: l)
  | diagonal {m n : Nat} {l : List (Int × Int)} (hl : Staircase x1 y1 sx sy m n l) :
      Staircase x1 y1 sx sy (m + 1) (n + 1) (pointBefore x1 y1 sx sy (m + 1) (n + 1) :: l)

/-- Two points that differ by at most 1 in each coordinate. -/
def Neighbours (u v : Int × Int) : Prop := (v.1 - u.1).natAbs ≤ 1 ∧ (v.2 - u.2).natAbs ≤ 1

section
variable {x1 y1 sx sy : Int} {m n : Nat} {l : List (Int × Int)}

theorem Staircase.head? (hl : Staircase x1 y1 sx sy m n l) : l.head? = some (pointBefore x1 y1 sx sy m n) := by
  cases hl with
  | stop => simp [pointBefore]
  | straight => rfl
  | diagonal => rfl

theorem Staircase.getLast? (hl : Staircase x1 y1 sx sy m n l) : l.getLast? = some (x1, y1) := by
  induction hl with
  | stop => rfl
  | straight _ ih | diagonal _ ih => rw [List.getLast?_cons, ih, Option.getD_some]

theorem Staircase.length (hl : Staircase x1 y1 sx sy m n l) : l.length = m + 1 := by
  induction hl with
  | stop => rfl
  | straight _ ih | diagonal _ ih => rw [List.length_cons, ih]

theorem Staircase.rows_le (hl : Staircase x1 y1 sx sy m n l) : n ≤ m := by
  induction hl with
  | stop => rfl
  | straight | diagonal => omega

/-- A walk goes through points between its ends. -/
theorem Staircase.exists_of_mem (hl : Staircase x1 y1 sx sy m n l) {u : Int × Int} (hu : u ∈ l) :
    ∃ i ≤ m, ∃ j ≤ n, u = pointBefore x1 y1 sx sy i j := by
  induction hl with
  | stop =>
    obtain rfl := List.mem_singleton.mp hu
    exact ⟨0, le_rfl, 0, le_rfl, by simp [pointBefore]⟩
  | straight _ ih | diagonal _ ih =>
    rcases List.mem_cons.mp hu with rfl | hu
    · exact ⟨_, le_rfl, _, le_rfl, rfl⟩
    · obtain ⟨i, hi, j, hj, rfl⟩ := ih hu
      exact ⟨i, by omega, j, by omega, rfl⟩

/-- No point of the walk from the next column on is in the column before. -/
theorem Staircase.pointBefore_notMem (hl : Staircase x1 y1 sx sy m n l) (hsx : sx = 1 ∨ sx = -1) (n' : Nat) :
    pointBefore x1 y1 sx sy (m + 1) n' ∉ l := by
  intro hmem
  obtain ⟨i, hi, j, -, heq⟩ := hl.exists_of_mem hmem
  have hcolumn : x1 - sx * (m + 1 : Nat) = x1 - sx * i := congrArg Prod.fst heq
  rcases hsx with rfl | rfl <;> omega

theorem Staircase.nodup (hl : Staircase x1 y1 sx sy m n l) (hsx : sx = 1 ∨ sx = -1) : l.Nodup := by
  induction hl with
  | stop => exact List.nodup_singleton _
  | straight hl ih | diagonal hl ih => exact List.nodup_cons.mpr ⟨hl.pointBefore_notMem hsx _, ih⟩

theorem Staircase.isChain (hl : Staircase x1 y1 sx sy m n l) (hsx : sx = 1 ∨ sx = -1) (hsy : sy = 1 ∨ sy = -1) :
    l.IsChain Neighbours := by
  induction hl with
  | stop => exact List.isChain_singleton _
  | straight hl ih | diagonal hl ih =>
    refine List.isChain_cons.mpr ⟨fun v hv => ?_, ih⟩
    rw [hl.head?, Option.mem_some_iff] at hv
    subst hv
    simp only [Neighbours, pointBefore]
    rcases hsx with rfl | rfl <;> rcases hsy with rfl | rfl <;> omega

end

/-! ### The loop walks a staircase -/

/-- With `m` columns and `n` rows to go, the point is at most half a row off the line: `e / a` is how far, for the slope
`b / a`. -/
structure NearLine (a b e : Int) (m n : Nat) : Prop where
  eq : e = m * b - n * a
  low : -a ≤ 2 * e
  high : 2 * e ≤ a

section
variable {a b e : Int} {m n : Nat}

/-- In the last column the row is the last one. -/
theorem NearLine.rows_eq_zero (h : NearLine a b e 0 n) (ha : 0 < a) : n = 0 := by
  obtain ⟨heq, hlow, -⟩ := h
  by_contra hn
  have hrows : a ≤ n * a := le_mul_of_one_le_left ha.le (by omega)
  omega

/-- A row is left when the loop moves one. -/
theorem NearLine.rows_pos (h : NearLine a b e (m + 1) n) (ha : 0 < a) (hb : 0 ≤ b) (hmove : 2 * (a - b + e) ≤ a) :
    0 < n := by
  obtain ⟨heq, -, -⟩ := h
  refine Nat.pos_of_ne_zero fun hn => ?_
  have hcolumns : b ≤ (m + 1 : Nat) * b := le_mul_of_one_le_left hb (by omega)
  subst hn
  omega

theorem NearLine.diagonal (h : NearLine a b e (m + 1) (n + 1)) (hba : b ≤ a) (hmove : 2 * (a - b + e) ≤ a) :
    NearLine a b (e - b + a) m n := by
  obtain ⟨heq, hlow, -⟩ := h
  refine ⟨?_, by omega, by omega⟩
  rw [heq]
  push_cast
  ring

theorem NearLine.straight (h : NearLine a b e (m + 1) n) (hb : 0 ≤ b) (hmove : ¬ 2 * (a - b + e) ≤ a) :
    NearLine a b (e - b) m n := by
  obtain ⟨heq, -, hhigh⟩ := h
  refine ⟨?_, by omega, by omega⟩
  rw [heq]
  push_cast
  ring

end

/-- Where the column has at least as far to go as the row, every round moves the column, and the loop is a staircase to
the end. -/
theorem lineLoop_staircase {x1 y1 sx sy a b e : Int} {m n fuel : Nat} (hsx : sx = 1 ∨ sx = -1) (ha : 0 < a) (hb : 0 ≤ b)
    (hba : b ≤ a) (hnear : NearLine a b e m n) (hfuel : m < fuel) :
    Staircase x1 y1 sx sy m n (lineLoop x1 y1 a (-b) sx sy fuel (a - b + e) (x1 - sx * m) (y1 - sy * n)) := by
  obtain ⟨fuel, rfl⟩ := Nat.exists_eq_add_of_lt hfuel
  induction m generalizing n e with
  | zero =>
    obtain rfl := hnear.rows_eq_zero ha
    simpa [lineLoop_stop] using Staircase.stop
  | succ m ih =>
    have hgoing : ¬ (x1 - sx * (m + 1 : Nat) = x1 ∧ y1 - sy * n = y1) := by
      rcases hsx with rfl | rfl <;> omega
    have hcolumn : 2 * (a - b + e) ≥ -b := by
      have hlow := hnear.low
      omega
    have hnext : x1 - sx * (m + 1 : Nat) + sx = x1 - sx * m := by
      push_cast
      ring
    have hround : m + 1 + fuel + 1 = m + fuel + 1 + 1 := by omega
    rw [hround]
    by_cases hmove : 2 * (a - b + e) ≤ a
    · obtain ⟨n, rfl⟩ := Nat.exists_eq_succ_of_ne_zero (hnear.rows_pos ha hb hmove).ne'
      have hrow : y1 - sy * (n + 1 : Nat) + sy = y1 - sy * n := by
        push_cast
        ring
      have herr : a - b + e + -b + a = a - b + (e - b + a) := by ring
      rw [lineLoop_diagonal hgoing hcolumn hmove, hnext, hrow, herr]
      exact .diagonal (ih (hnear.diagonal hba hmove) (by omega))
    · have herr : a - b + e + -b = a - b + (e - b) := by ring
      rw [lineLoop_straight hgoing hcolumn hmove, hnext, herr]
      exact .straight (ih (hnear.straight hb hmove) (by omega))

theorem sign_eq (p q : Int) : (if p < q then (1 : Int) else -1) = 1 ∨ (if p < q then (1 : Int) else -1) = -1 := by
  split
  · exact .inl rfl
  · exact .inr rfl

/-- A coordinate of the first end is the second end's, gone back by the distance. -/
theorem sub_sign_mul_natAbs (p q : Int) : q - (if p < q then 1 else -1) * ((q - p).natAbs : Int) = p := by
  split <;> omega

/-- A line that is at least as wide as high is a staircase. -/
theorem linePoints_staircase {x0 y0 x1 y1 : Int} (hwide : (y1 - y0).natAbs ≤ (x1 - x0).natAbs) :
    Staircase x1 y1 (if x0 < x1 then 1 else -1) (if y0 < y1 then 1 else -1) (x1 - x0).natAbs (y1 - y0).natAbs
      (linePoints x0 y0 x1 y1) := by
  by_cases hpoint : x0 = x1
  · have hrow : y0 = y1 := by omega
    subst hpoint hrow
    simpa [linePoints, lineLoop_stop] using Staircase.stop
  · have hloop := lineLoop_staircase (x1 := x1) (y1 := y1) (sy := if y0 < y1 then 1 else -1)
      (fuel := (x1 - x0).natAbs + (y1 - y0).natAbs + 1) (sign_eq x0 x1) (a := (x1 - x0).natAbs) (b := (y1 - y0).natAbs)
      (e := 0) (m := (x1 - x0).natAbs) (n := (y1 - y0).natAbs) (by omega) (by omega) (by omega)
      ⟨by ring, by omega, by omega⟩ (by omega)
    rwa [sub_sign_mul_natAbs, sub_sign_mul_natAbs, Int.add_zero] at hloop

/-! ### What a list of points has to be to be a line -/

/-- The statements of 43_raster_line.md section 1 about the points of a line, as one. -/
structure IsLine (x0 y0 x1 y1 : Int) (l : List (Int × Int)) : Prop where
  head? : l.head? = some (x0, y0)
  getLast? : l.getLast? = some (x1, y1)
  length : l.length = max (x1 - x0).natAbs (y1 - y0).natAbs + 1
  box : ∀ u ∈ l, min x0 x1 ≤ u.1 ∧ u.1 ≤ max x0 x1 ∧ min y0 y1 ≤ u.2 ∧ u.2 ≤ max y0 y1
  nodup : l.Nodup
  isChain : l.IsChain Neighbours

/-- The two coordinates may be exchanged. -/
theorem IsLine.swap {x0 y0 x1 y1 : Int} {l : List (Int × Int)} (hl : IsLine y0 x0 y1 x1 l) :
    IsLine x0 y0 x1 y1 (l.map Prod.swap) where
  head? := by rw [List.head?_map, hl.head?]; rfl
  getLast? := by rw [List.getLast?_map, hl.getLast?]; rfl
  length := by rw [List.length_map, hl.length, max_comm]
  box := by
    intro u hu
    obtain ⟨v, hv, rfl⟩ := List.mem_map.mp hu
    obtain ⟨hyLow, hyHigh, hxLow, hxHigh⟩ := hl.box v hv
    exact ⟨hxLow, hxHigh, hyLow, hyHigh⟩
  nodup := hl.nodup.map Prod.swap_injective
  isChain := (List.isChain_map Prod.swap).mpr (hl.isChain.imp fun _ _ ⟨hx, hy⟩ => ⟨hy, hx⟩)

theorem Staircase.isLine {x0 y0 x1 y1 : Int} {l : List (Int × Int)}
    (hl : Staircase x1 y1 (if x0 < x1 then 1 else -1) (if y0 < y1 then 1 else -1) (x1 - x0).natAbs (y1 - y0).natAbs l) :
    IsLine x0 y0 x1 y1 l where
  head? := by rw [hl.head?, pointBefore, sub_sign_mul_natAbs, sub_sign_mul_natAbs]
  getLast? := hl.getLast?
  length := by rw [hl.length, Nat.max_eq_left hl.rows_le]
  box := by
    intro u hu
    obtain ⟨i, hi, j, hj, rfl⟩ := hl.exists_of_mem hu
    dsimp only [pointBefore]
    split <;> split <;> omega
  nodup := hl.nodup (sign_eq x0 x1)
  isChain := hl.isChain (sign_eq x0 x1) (sign_eq y0 y1)

theorem isLine_linePoints (x0 y0 x1 y1 : Int) : IsLine x0 y0 x1 y1 (linePoints x0 y0 x1 y1) := by
  rcases Nat.le_total (y1 - y0).natAbs (x1 - x0).natAbs with hwide | hhigh
  · exact (linePoints_staircase hwide).isLine
  · rw [linePoints_swap]
    exact (linePoints_staircase hhigh).isLine.swap

/-- Settles O44: the loop has come to its end within its rounds, so more rounds add nothing. -/
theorem lineReachesItsEnd : Obligations.LineReachesItsEnd := by
  intro x0 y0 x1 y1
  have hline := isLine_linePoints x0 y0 x1 y1
  exact ⟨hline.head?, hline.getLast?, hline.length,
    fun more => lineLoop_add_fuel (List.mem_of_getLast? hline.getLast?) more⟩

/-- Settles O45: the box, the distinctness and the chain of `isLine_linePoints`. -/
theorem lineIsConnectedInItsBox : Obligations.LineIsConnectedInItsBox := by
  intro x0 y0 x1 y1
  have hline := isLine_linePoints x0 y0 x1 y1
  refine ⟨hline.box, hline.nodup, fun k u v hu hv => ?_⟩
  obtain ⟨_, rfl⟩ := List.getElem?_eq_some_iff.mp hu
  obtain ⟨hk, rfl⟩ := List.getElem?_eq_some_iff.mp hv
  exact List.isChain_iff_getElem.mp hline.isChain k hk

/-! ### `LINE_TO` (R204) -/

/-- The check of a line asks for its two ends: the points between lie in their box. -/
theorem all_pointInRange_linePoints_iff (params : Params) (x0 y0 x1 y1 : Int) :
    (∀ u ∈ linePoints x0 y0 x1 y1, pointInRange params u = true) ↔
      pointInRange params (x0, y0) = true ∧ pointInRange params (x1, y1) = true := by
  have hline := isLine_linePoints x0 y0 x1 y1
  constructor
  · exact fun hall => ⟨hall _ (List.mem_of_head? hline.head?), hall _ (List.mem_of_getLast? hline.getLast?)⟩
  · rintro ⟨hfirst, hlast⟩ u hu
    rw [pointInRange_iff] at hfirst hlast ⊢
    have hbox := hline.box u hu
    omega

/-- The check of `LINE_TO` in the operands' own numbers. -/
theorem all_pointInRange_lineTo_iff (params : Params) (q : Point) (x y : Byte) :
    (∀ u ∈ lineTo q x y, pointInRange params u = true) ↔
      q.x.toNat + params.originX.toNat < 128 ∧ q.y.toNat + params.originY.toNat < 64 ∧
        x.toNat + params.originX.toNat < 128 ∧ y.toNat + params.originY.toNat < 64 := by
  rw [lineTo, all_pointInRange_linePoints_iff, pointInRange_iff, pointInRange_iff]
  omega

/-- Settles O46: of the check's two outcomes, the one draws and the other faults. -/
theorem lineToFaultsExactlyWhenAnEndIsOutside : Obligations.LineToFaultsExactlyWhenAnEndIsOutside := by
  intro x y q s hcur _
  rw [← all_pointInRange_lineTo_iff]
  refine ⟨fun hin => ?_, fun hout => ?_⟩
  · obtain ⟨-, ⟨-, hfault, -, -⟩, ⟨hcurAfter, hprevAfter⟩, -⟩ :=
      foldl_plotPoint_onlyDrawn (lineTo q x y) (updateCursor { x := x, y := y } s)
    exact ⟨_, by rw [exec_lineTo_of_set hcur, if_pos hin], hfault.trans (updateCursor_fault _ s),
      hcurAfter.trans (updateCursor_cur _ s), hprevAfter.trans ((updateCursor_prev _ s).trans hcur)⟩
  · exact ⟨_, by rw [exec_lineTo_of_set hcur, if_neg hout], raise_faultEntered _ _ s⟩

end Sys2Proof.Machine
end
